-- ==== Sys2Proof/Word.lean ====
section
/-! DEFINITION. The words of the block: bytes, Samples and the cells that hold Samples. -/

namespace Sys2Proof

/-- One byte: the unit of the serial link and of `tx_mem` (30_encoding.md R90, 20_memory.md R61). -/
abbrev Byte := BitVec 8

/-- A Sample, 10 bits unsigned (00_scope.md R6 `SAMPLE_BITS`, R14). -/
abbrev Sample := BitVec 10

/-- A cell of `hs_mem` or `win`: 16 bits holding a zero-extended Sample (20_memory.md R60, R62). -/
abbrev Cell16 := BitVec 16

/-- A Sample zero-extended into its cell (20_memory.md R62, 30_encoding.md R96). -/
abbrev Sample.toCell (v : Sample) : Cell16 := v.setWidth 16

end Sys2Proof
end

