-- ==== Sys2Proof/Config.lean ====
section
/-! DEFINITION. What an implementation fixes (00_scope.md R6) and the values the spec leaves unspecified.
The parameters that are plain data are a record, `Params`; the machine's state carries one, which no step writes
(log 3). The four parameters that are reals are a record of their own, `RealParams`, and an opaque constant (log 18).
The unspecified contents are opaque constants: nothing can be proved of them (log 4, log 6). -/

namespace Sys2Proof

/-- The three sample rates (00_scope.md R6 `RATES`, R8; 10_state.md R31). -/
inductive Rate where
  | r1 | r10 | r20
  deriving DecidableEq, Repr, Inhabited

/-- A rate in Hz: 1000, 10000 or 20000 (00_scope.md R6). -/
def Rate.hz : Rate → Nat
  | .r1 => 1000
  | .r10 => 10000
  | .r20 => 20000

/-- How the overflow indicator behaves, `FAULT_IND_MODE` (00_scope.md R6, 10_state.md R26). -/
inductive FaultIndMode where
  | sticky | toggle
  deriving DecidableEq, Repr, Inhabited

/-- What the serial link may do to a byte, `LINK_MODEL` (00_scope.md R6, 20_memory.md R70). -/
inductive LinkModel where
  | lossless | lossy | noisy
  deriving DecidableEq, Repr, Inhabited

/-- SignalStatistics (10_state.md R42, 44_dsp_pipeline.md R214), over the numbers `α`. -/
structure Stats (α : Type) where
  rms : α
  min : α
  max : α
  p2p : α
  dc : α
  domF : α
  domM : α
  deriving DecidableEq, Repr, Inhabited

/-- The output of a DSP pass: SpectrumResult, the FFT size and SignalStatistics (44_dsp_pipeline.md R200). -/
structure PassResult (α : Type) where
  spec : List α
  m : Nat
  stats : Stats α
  deriving DecidableEq, Repr, Inhabited

/-- The parameters of 00_scope.md R6 that the source leaves OPEN and that are plain data. `NUM` is in
`Machine/Num.lean` and its `eps` in `Machine/NumSpec.lean`, the real parameters are in `RealParams`; the timing
parameters enter no rule (log 22). The function `THRESH` is held as its three values (log 19). -/
structure Params where
  /-- `TX_N`, capacity of the TX ring in bytes. -/
  txN : Nat
  /-- `HS_N`, capacity of the host sample ring in Samples. -/
  hsN : Nat
  /-- `W`, the analysis window length in Samples. -/
  w : Nat
  /-- `FFT_MIN`, the minimum FFT size. -/
  fftMin : Nat
  /-- `THRESH(1000)`. -/
  thresh1 : Nat
  /-- `THRESH(10000)`. -/
  thresh10 : Nat
  /-- `THRESH(20000)`. -/
  thresh20 : Nat
  /-- `RESET_RATE`. -/
  resetRate : Rate
  /-- `FAULT_IND_MODE`. -/
  faultIndMode : FaultIndMode
  /-- `LINK_MODEL`. -/
  linkModel : LinkModel
  deriving DecidableEq, Repr

/-- `n` is a power of two. -/
abbrev IsPow2 (n : Nat) : Prop := 2 ^ Nat.log2 n = n

/-- The constraint column of 00_scope.md R6, for these parameters. -/
abbrev Params.Wf (p : Params) : Prop :=
  (IsPow2 p.txN ∧ 2 ≤ p.txN) ∧ (IsPow2 p.hsN ∧ 1 ≤ p.hsN ∧ p.w ≤ p.hsN) ∧ 1 ≤ p.w ∧
  (IsPow2 p.fftMin ∧ 2 ≤ p.fftMin) ∧ (1 ≤ p.thresh1 ∧ 1 ≤ p.thresh10 ∧ 1 ≤ p.thresh20)

/-- The threshold function `THRESH` (43_backpressure.md R192). -/
def Params.thresh (p : Params) : Rate → Nat
  | .r1 => p.thresh1
  | .r10 => p.thresh10
  | .r20 => p.thresh20

/-- The small test instance of 92_eei_decisions.md ("A small concrete instance for testing"), with the
defaults of 00_scope.md R6. DESIGN CHOICE (log 3): the instance in `State.reset`. -/
def Params.testInstance : Params where
  txN := 16
  hsN := 8
  w := 4
  fftMin := 4
  thresh1 := 4
  thresh10 := 4
  thresh20 := 4
  resetRate := .r1
  faultIndMode := .sticky
  linkModel := .noisy

/-- The parameters of 00_scope.md R6 that are reals, with the constraint column. The source leaves them OPEN. -/
structure RealParams where
  /-- `VREF` in volts. -/
  vref : ℝ
  /-- `ADC_RES`, the converter's divisor. -/
  adcRes : ℝ
  /-- `F_MIN` in Hz. -/
  fMin : ℝ
  /-- `REFRESH_HZ`, the target refresh rate of the analysis; it enters the default of `THRESH` only. -/
  refreshHz : ℝ
  vref_pos : 0 < vref
  adcRes_pos : 0 < adcRes
  fMin_nonneg : 0 ≤ fMin
  refreshHz_pos : 0 < refreshHz

/-- A choice of the real parameters, without a body: nothing is known of it but the constraints. -/
opaque Config.realsOf [Inhabited RealParams] : RealParams

/-- Some real parameters: what makes the type not empty. The values are seen by nothing. -/
noncomputable def RealParams.some : RealParams where
  vref := 5
  adcRes := 1024
  fMin := 2
  refreshHz := 24
  vref_pos := by norm_num
  adcRes_pos := by norm_num
  fMin_nonneg := by norm_num
  refreshHz_pos := by norm_num

/-- The block's real parameters (00_scope.md R6), OPEN: what is proved with them holds of every value that meets the
constraints (92_eei_decisions.md, the table of the parameters' defaults; log 18). -/
noncomputable def Config.reals : RealParams := @Config.realsOf ⟨RealParams.some⟩

/-! Unspecified contents (93_implementation_defined.md U3, treatment `any value`). The first argument is
how many resets the half has had, so that each reset leaves fresh values. -/

/-- A cell of `tx_mem` not written since the device half's reset (20_memory.md R61). -/
opaque Config.freeTxByte : Nat → Nat → Byte
/-- A cell of `hs_mem` not written since the host half's reset (20_memory.md R62). R62 says both that the contents after
reset are unspecified and that bits 15 to 10 are always 0; all 16 bits are left free here. DESIGN CHOICE (log 28). -/
opaque Config.freeHsCell : Nat → Nat → Cell16
/-- A cell of `win` not written since the host half's reset (20_memory.md R63), all 16 bits free. DESIGN CHOICE
(log 28). -/
opaque Config.freeWinCell : Nat → Nat → Cell16
/-- `dec_high` after a reset of the host half (10_state.md R22). -/
opaque Config.freeDecHigh : Nat → BitVec 3
/-- `pass_L` after a reset of the host half (10_state.md R22), free beyond `W` too. DESIGN CHOICE (log 28). -/
opaque Config.freePassL : Nat → Nat
/-- `pass_fs` after a reset of the host half (10_state.md R22). -/
opaque Config.freePassFs : Nat → Rate
/-- `res_spec` after a reset of the host half (10_state.md R42). -/
opaque Config.freeResSpec : Nat → List ℚ
/-- `res_M` after a reset of the host half (10_state.md R42). -/
opaque Config.freeResM : Nat → Nat
/-- `res_fs` after a reset of the host half (10_state.md R42). -/
opaque Config.freeResFs : Nat → Rate
/-- `res_stats` after a reset of the host half (10_state.md R42). -/
opaque Config.freeResStats : Nat → Stats ℚ

end Sys2Proof
end

