-- ==== Sys2Proof/Syntax.lean ====
section
/-! DEFINITION. The encoded operations of the block, one constructor per row of spec/opcode_table.json
(30_encoding.md R98, R99, R106). The operands are the fields of the encoding. -/

namespace Sys2Proof

/-- An encoded operation: a command byte as the device takes it, or a data-stream byte as the host's
frame decoder takes it. -/
inductive Instr where
  /-- `CMD.START` (42_command_channel.md R161). -/
  | cmdStart
  /-- `CMD.STOP` (42_command_channel.md R162). -/
  | cmdStop
  /-- `CMD.RATE1` (42_command_channel.md R163). -/
  | cmdRate1
  /-- `CMD.RATE10` (42_command_channel.md R164). -/
  | cmdRate10
  /-- `CMD.RATE20` (42_command_channel.md R165). -/
  | cmdRate20
  /-- `CMD.HANDSHAKE` (42_command_channel.md R166). -/
  | cmdHandshake
  /-- `CMD.IGNORE`: any other command byte `op` (42_command_channel.md R167). -/
  | cmdIgnore (op : Byte)
  /-- `DEC.HI`: bits 6:3 `pad`, bits 2:0 `h` (40_frame_codec.md R123, 30_encoding.md R92). -/
  | decHi (pad : BitVec 4) (h : BitVec 3)
  /-- `DEC.LO`: bits 6:0 `l`, taken while a high byte is pending (40_frame_codec.md R124). -/
  | decLo (l : BitVec 7)
  /-- `DEC.DROP`: bits 6:0 `l`, taken while nothing is pending (40_frame_codec.md R125). -/
  | decDrop (l : BitVec 7)
  deriving DecidableEq, Repr

end Sys2Proof
end

