-- ==== Sys2Proof/WellFormed.lean ====
section
/-! DEFINITION. Which terms of `Instr` are operations of the block. -/

namespace Sys2Proof

/-- The six defined command opcodes (30_encoding.md R98). -/
def commandOpcodes : List Byte := [0x01#8, 0x02#8, 0x10#8, 0x11#8, 0x12#8, 0x3F#8]

/-- `CMD.IGNORE` stands for the 250 bytes that are no defined opcode (30_encoding.md R100 item 1). Every
other term is an operation whatever its operands: all 16 values of `pad` are (R100 item 2). -/
def Instr.wellFormed : Instr → Bool
  | .cmdIgnore op => !commandOpcodes.contains op
  | .cmdStart | .cmdStop | .cmdRate1 | .cmdRate10 | .cmdRate20 | .cmdHandshake => true
  | .decHi _ _ | .decLo _ | .decDrop _ => true

end Sys2Proof
end

