-- ==== Sys2Proof/Decode.lean ====
section
/-! DEFINITION. From bytes to operations and back (30_encoding.md R90 to R106). -/

namespace Sys2Proof

/-- The format a byte is read in, which is fixed by where it arrives and, within the data stream, by the
decoder's state (30_encoding.md R99, R106). -/
inductive Format where
  /-- A byte on `cmd_byte`. -/
  | cmd
  /-- A byte on `rx_byte` while the host is connected, `dec_pending` being `pending`. -/
  | data (pending : Bool)
  deriving DecidableEq, Repr

/-- Why a byte stream decodes to no operation. No byte value is illegal (30_encoding.md R100), so the only
reason is that there is no byte. -/
inductive DecodeError where
  | noByte
  deriving DecidableEq, Repr

/-- Format `CMD`: the whole byte is the opcode (30_encoding.md R91, R98, R100; 42_command_channel.md R160). -/
def decodeCommand (b : Byte) : Instr :=
  if b = 0x01#8 then .cmdStart
  else if b = 0x02#8 then .cmdStop
  else if b = 0x10#8 then .cmdRate1
  else if b = 0x11#8 then .cmdRate10
  else if b = 0x12#8 then .cmdRate20
  else if b = 0x3F#8 then .cmdHandshake
  else .cmdIgnore b

/-- Formats `DHI` and `DLO`: bit 7 tells them apart, and `dec_pending` tells `DEC.LO` from `DEC.DROP`
(30_encoding.md R92, R99). -/
def decodeData (pending : Bool) (b : Byte) : Instr :=
  if b.getLsbD 7 then .decHi (b.extractLsb' 3 4) (b.extractLsb' 0 3)
  else if pending then .decLo (b.extractLsb' 0 7)
  else .decDrop (b.extractLsb' 0 7)

/-- One operation from the front of a byte stream, and the rest of it (30_encoding.md R103). -/
def decode (f : Format) : List Byte → Except DecodeError (Instr × List Byte)
  | [] => .error .noByte
  | b :: rest =>
    match f with
    | .cmd => .ok (decodeCommand b, rest)
    | .data pending => .ok (decodeData pending b, rest)

/-- The byte of an operation (30_encoding.md R92, R98). -/
def encodeByte : Instr → Byte
  | .cmdStart => 0x01#8
  | .cmdStop => 0x02#8
  | .cmdRate1 => 0x10#8
  | .cmdRate10 => 0x11#8
  | .cmdRate20 => 0x12#8
  | .cmdHandshake => 0x3F#8
  | .cmdIgnore op => op
  | .decHi pad h => 1#1 ++ pad ++ h
  | .decLo l => 0#1 ++ l
  | .decDrop l => 0#1 ++ l

/-- The bytes of an operation: always one (30_encoding.md R103). -/
def encode (i : Instr) : List Byte := [encodeByte i]

/-- Whether an operation is of format `CMD` (30_encoding.md R106). -/
def Instr.isCommand : Instr → Bool
  | .cmdStart | .cmdStop | .cmdRate1 | .cmdRate10 | .cmdRate20 | .cmdHandshake | .cmdIgnore _ => true
  | .decHi _ _ | .decLo _ | .decDrop _ => false

/-- The operation `i` is read in the format `f`: a command on `cmd_byte`; `DEC.HI` in either decoder
state, `DEC.LO` while pending, `DEC.DROP` while idle (30_encoding.md R99, R106). -/
def Instr.readIn (i : Instr) (f : Format) : Bool :=
  match i, f with
  | .decHi _ _, .data _ => true
  | .decLo _, .data pending => pending
  | .decDrop _, .data pending => !pending
  | i, .cmd => i.isCommand
  | _, .data _ => false

/-- `match` and `mask` of the operation's row in the machine-readable table (30_encoding.md R106). -/
def Instr.tableRow : Instr → Byte × Byte
  | .cmdStart => (0x01#8, 0xFF#8)
  | .cmdStop => (0x02#8, 0xFF#8)
  | .cmdRate1 => (0x10#8, 0xFF#8)
  | .cmdRate10 => (0x11#8, 0xFF#8)
  | .cmdRate20 => (0x12#8, 0xFF#8)
  | .cmdHandshake => (0x3F#8, 0xFF#8)
  | .cmdIgnore _ => (0x00#8, 0x00#8)
  | .decHi _ _ => (0x80#8, 0x80#8)
  | .decLo _ => (0x00#8, 0x80#8)
  | .decDrop _ => (0x00#8, 0x80#8)

/-- The operation of a bare table word. A bare byte does not say on which port it arrives, so the format is
chosen by the most specific row that matches: mask 0xFF (the six commands), then mask 0x80 (the data stream,
in the decoder's reset state, idle). DESIGN CHOICE (log 14). -/
def decodeTableWord (nbits w : Nat) : Option Instr :=
  if nbits = 8 ∧ w < 256 then
    let b := BitVec.ofNat 8 w
    let f := if commandOpcodes.contains b then Format.cmd else Format.data false
    match decode f [b] with
    | .ok (i, _) => some i
    | .error .noByte => none
  else none

end Sys2Proof
end

