-- ==== Sys2Proof/Machine/State.lean ====
section
/-! DEFINITION. The state of the block as plain data (10_state.md), its operations (30_encoding.md R107), what
a step can stop with, and the state after reset (10_state.md R48). -/

namespace Sys2Proof.Machine

/-- The acquisition axis, and the host's copy of it (10_state.md R30, R37). -/
inductive Acq where
  | stopped | running
  deriving DecidableEq, Repr

/-- The host's connection state (10_state.md R39). -/
inductive Conn where
  | disconnected | handshaking | connected | failed
  deriving DecidableEq, Repr

/-- What the link does to the byte at the front of a queue (20_memory.md R70). `garble b'` carries the byte
the environment draws. -/
inductive LinkAct where
  | deliver | drop | garble (b' : Byte)
  deriving DecidableEq, Repr

/-- A command the host controller may send (42_command_channel.md R170). -/
inductive HostCmd where
  | start | stop | rate1 | rate10 | rate20
  deriving DecidableEq, Repr

/-- Why the device half is reset (70_reset_and_hazards.md R281): power-on, the watchdog, or the host opening
the link. -/
inductive ResetCause where
  | powerOn | watchdog | linkOpen
  deriving DecidableEq, Repr

/-- Whether the two operations whose sub-steps may be separated are taken whole or in sub-steps
(40_frame_codec.md R121, 42_command_channel.md R166, 10_state.md R41). -/
inductive Grain where
  | whole | subSteps
  deriving DecidableEq, Repr

/-- A line of a trace: an operation of the table of 30_encoding.md R107 that stands on a line of its own
(R108). `setGrain` is the model's own directive (log 8). -/
inductive Event where
  /-- `DEV.RESET` (70_reset_and_hazards.md R281). -/
  | devReset (cause : ResetCause)
  /-- `HOST.RESET` (70_reset_and_hazards.md R282). -/
  | hostReset
  /-- `TICK` (40_frame_codec.md R120). -/
  | tick
  /-- `CONV.DONE s`; the Sample is the environment's draw (40_frame_codec.md R121). -/
  | convDone (v : Sample)
  /-- `TX.PUSH b` written out: the next sub-step of a `CONV.DONE` or `CMD.HANDSHAKE` in progress
  (30_encoding.md R108). -/
  | txPush (b : Byte)
  /-- `TX.DRAIN` (41_ring_buffers.md R144). -/
  | txDrain
  /-- `LINK.D2H.DELIVER`, `LINK.D2H.DROP`, `LINK.D2H.GARBLE b'` (20_memory.md R70). -/
  | linkD2h (act : LinkAct)
  /-- `LINK.H2D.DELIVER`, `LINK.H2D.DROP`, `LINK.H2D.GARBLE b'` (20_memory.md R70). -/
  | linkH2d (act : LinkAct)
  /-- `CMD b` raised directly on the port `cmd_byte` (95_test_vectors.md P6; log 10). -/
  | cmd (b : Byte)
  /-- `HOST.SEND c` (42_command_channel.md R170). -/
  | hostSend (c : HostCmd)
  /-- `HOST.CONNECT` (42_command_channel.md R171). -/
  | hostConnect
  /-- `HOST.TIMEOUT` (42_command_channel.md R176). -/
  | hostTimeout
  /-- `HOST.DISCONNECT` (42_command_channel.md R177). -/
  | hostDisconnect
  /-- `HOST.XFAULT` (42_command_channel.md R178). -/
  | hostXfault
  /-- `HOST.RX b` raised directly on the port `rx_byte` (30_encoding.md R109 `STREAM`; log 10). -/
  | hostRx (b : Byte)
  /-- `HS.READ_RECENT L` by the consumer (41_ring_buffers.md R147, 10_state.md R52). -/
  | hsReadRecent (l : Nat)
  /-- `DSP.DONE` (43_backpressure.md R196). -/
  | dspDone
  /-- The environment's choice of how the next operation with sub-steps is taken (log 8). -/
  | setGrain (g : Grain)
  deriving DecidableEq, Repr, Inhabited

/-- What the primitive `raise` records (00_scope.md R11, 60_exceptions.md R250). -/
inductive Raised where
  | transportFault | protocolMismatch | protocolTimeout | txOverflow | watchdogReset
  deriving DecidableEq, Repr

/-- What the primitive `emit` produces on an output port (00_scope.md R11, 10_state.md R50). -/
inductive Emitted where
  | convStart | txByte (b : Byte) | hostTxByte (b : Byte)
  deriving DecidableEq, Repr

/-- Why a step can stop. -/
inductive Fault where
  /-- The operation is not enabled, so it has no step (00_scope.md R12, 93_implementation_defined.md U17
  treatment `stuck`). Raised by an operation written in a trace, and by `DEC.LO` and `DEC.DROP` outside the
  decoder state they need. Safe (log 11). -/
  | notEnabled
  deriving DecidableEq, Repr

/-- Why an instruction can be refused. -/
inductive Refusal where
  /-- The instruction has no meaning in the model. Raised by no arm: every row of the table has its meaning. Safe. -/
  | notModelled (mnemonic : String)
  deriving DecidableEq, Repr

/-- The whole state: the device half, the link, the host half, and the model's own fields. -/
structure State where
  /-- The model's own: the implementation parameters (00_scope.md R6; log 3). No step writes them. -/
  cfg : Params
  /-- `acq` (10_state.md R30). -/
  acq : Acq
  /-- `rate` (10_state.md R31). -/
  rate : Rate
  /-- `tx_mem`: the cells written since the device's reset (20_memory.md R61; log 4). -/
  txMem : List Host.Cell
  /-- `tx_head` (10_state.md R32). -/
  txHead : Nat
  /-- `tx_tail` (10_state.md R33). -/
  txTail : Nat
  /-- `tx_drain_en` (10_state.md R27). -/
  txDrainEn : Bool
  /-- `tx_fault` (10_state.md R25). -/
  txFault : Bool
  /-- `fault_ind` (10_state.md R26). -/
  faultInd : Bool
  /-- `conv_pending` (10_state.md R28). -/
  convPending : Bool
  /-- The number of pushes already made by a `CMD.HANDSHAKE` in progress (10_state.md R41). -/
  hsPos : Option Nat
  /-- The low byte still to be pushed by a `CONV.DONE` in progress (10_state.md R41). -/
  convLo : Option Byte
  /-- `link_d2h`, oldest byte first (10_state.md R45). -/
  linkD2h : List Byte
  /-- `link_h2d`, oldest byte first (10_state.md R45). -/
  linkH2d : List Byte
  /-- `dec_pending` (10_state.md R24). -/
  decPending : Bool
  /-- `dec_high` (10_state.md R22, R23). -/
  decHigh : BitVec 3
  /-- `hs_mem`: the cells written since the host's reset (20_memory.md R62; log 4). -/
  hsMem : List (Nat × Cell16)
  /-- `hs_head` (10_state.md R34). -/
  hsHead : Nat
  /-- `hs_count` (10_state.md R35). -/
  hsCount : Nat
  /-- `bp_count` (10_state.md R36). -/
  bpCount : Nat
  /-- `dsp_busy` (10_state.md R29). -/
  dspBusy : Bool
  /-- `win`: the cells written since the host's reset (20_memory.md R63; log 4). -/
  win : List (Nat × Cell16)
  /-- `pass_L` (10_state.md R22). -/
  passL : Nat
  /-- `pass_fs` (10_state.md R22). -/
  passFs : Rate
  /-- `res_valid` (10_state.md R42). -/
  resValid : Bool
  /-- `res_spec` (10_state.md R42). -/
  resSpec : List ℚ
  /-- `res_M` (10_state.md R42). -/
  resM : Nat
  /-- `res_fs` (10_state.md R42). -/
  resFs : Rate
  /-- `res_stats` (10_state.md R42). -/
  resStats : Stats ℚ
  /-- `h_active` (10_state.md R37). -/
  hActive : Acq
  /-- `h_rate` (10_state.md R38). -/
  hRate : Rate
  /-- `h_conn` (10_state.md R39). -/
  hConn : Conn
  /-- `hs_rx` (10_state.md R40). -/
  hsRx : List Byte
  /-- The model's own: how operations with sub-steps are taken (log 8). -/
  grain : Grain
  /-- The model's own: resets of the device half so far, the argument of its free values (log 6). -/
  devEpoch : Nat
  /-- The model's own: resets of the host half so far, the argument of its free values (log 6). -/
  hostEpoch : Nat
  /-- The model's own: what `raise` recorded, newest first (00_scope.md R11; log 12). -/
  raised : List Raised
  /-- The model's own: what `emit` produced, newest first (00_scope.md R11; log 12). -/
  emitted : List Emitted
  /-- The model's own: the program, the operations still to be taken (00_scope.md R13; log 1). -/
  trace : List Event
  /-- The model's own: free choices of the next operation made so far (60_exceptions.md R262; log 2). -/
  draws : Nat
  deriving DecidableEq, Repr

/-- The machine after the reset of both halves with the link empty (10_state.md R48, 70_reset_and_hazards.md
R280). The registers R48 leaves unspecified hold the values log 5 names (DESIGN CHOICE); the parameters are
the small test instance (log 3, DESIGN CHOICE). -/
def State.reset : State where
  cfg := Params.testInstance
  acq := .stopped
  rate := Params.testInstance.resetRate
  txMem := []
  txHead := 0
  txTail := 0
  txDrainEn := false
  txFault := false
  faultInd := false
  convPending := false
  hsPos := none
  convLo := none
  linkD2h := []
  linkH2d := []
  decPending := false
  decHigh := 0
  hsMem := []
  hsHead := 0
  hsCount := 0
  bpCount := 0
  dspBusy := false
  win := []
  passL := 0
  passFs := .r1
  resValid := false
  resSpec := []
  resM := 0
  resFs := .r1
  resStats := { rms := 0, min := 0, max := 0, p2p := 0, dc := 0, domF := 0, domM := 0 }
  hActive := .stopped
  hRate := Params.testInstance.resetRate
  hConn := .disconnected
  hsRx := []
  grain := .whole
  devEpoch := 0
  hostEpoch := 0
  raised := []
  emitted := []
  trace := []
  draws := 0

end Sys2Proof.Machine
end

