-- ==== Sys2Proof/Machine/Operands.lean ====
section
/-! DEFINITION. The values operations are given and make: Samples and Frames, the handshake response, and index
arithmetic (30_encoding.md R96, R97, R101, R102; 41_ring_buffers.md R149). -/

namespace Sys2Proof.Machine

/-- The high byte of a Frame: sync 1, pad 0000, sample bits 9:7 (40_frame_codec.md R122). The argument is 16
bits wide; bits 15:10 are ignored (30_encoding.md R97). -/
def encHi (v : Cell16) : Byte := 1#1 ++ 0#4 ++ v.extractLsb' 7 3

/-- The low byte of a Frame: sync 0, sample bits 6:0 (40_frame_codec.md R122). -/
def encLo (v : Cell16) : Byte := 0#1 ++ v.extractLsb' 0 7

/-- `ENC(s)` (40_frame_codec.md R122). -/
def enc (v : Cell16) : Byte × Byte := (encHi v, encLo v)

/-- The Sample of a Frame, `(h << 7) | l` (30_encoding.md R96). -/
def assemble (h : BitVec 3) (l : BitVec 7) : Sample := h ++ l

/-- `ID`: the 7 bytes of the identification string (30_encoding.md R101). -/
def idBytes : List Byte := [0x4F#8, 0x53#8, 0x43#8, 0x5F#8, 0x56#8, 0x31#8, 0x0A#8]

/-- `ID_CHK`: the XOR of the bytes of `ID` (30_encoding.md R102). -/
def idChk : Byte := idBytes.foldl (· ^^^ ·) 0

/-- The handshake response, format `HSR` (30_encoding.md R101). -/
def response : List Byte := idBytes ++ [idChk]

/-- `(i + 1) mod n` (41_ring_buffers.md R149). -/
def ringSucc (n i : Nat) : Nat := (i + 1) % n

/-- `(a − b) mod n`, taken in `0 .. n−1` (41_ring_buffers.md R149). -/
def ringSub (n a b : Nat) : Nat := (a + (n - b % n)) % n

/-- The opcode of a command the host sends (42_command_channel.md R170, 30_encoding.md R98). -/
def HostCmd.instr : HostCmd → Instr
  | .start => .cmdStart
  | .stop => .cmdStop
  | .rate1 => .cmdRate1
  | .rate10 => .cmdRate10
  | .rate20 => .cmdRate20

/-- The default threshold, `max(1, floor(rate / REFRESH_HZ))` (43_backpressure.md R192). -/
noncomputable def defaultThresh (a : RealParams) (r : Rate) : Nat := max 1 ⌊(r.hz : ℝ) / a.refreshHz⌋₊

end Sys2Proof.Machine
end

