-- ==== Sys2Proof/Machine/Flags.lean ====
section
/-! DEFINITION. The flags and derived quantities of the TX ring (41_ring_buffers.md R142, 10_state.md R26), and
which steps the link model allows (20_memory.md R70). -/

namespace Sys2Proof.Machine

/-- `tx_live` (41_ring_buffers.md R142). -/
def txLive (s : State) : Nat := ringSub s.cfg.txN s.txHead s.txTail

/-- `tx_empty` (41_ring_buffers.md R142). -/
def txEmpty (s : State) : Bool := s.txHead == s.txTail

/-- `tx_full` (41_ring_buffers.md R142). -/
def txFull (s : State) : Bool := ringSucc s.cfg.txN s.txHead == s.txTail

/-- `fault_ind` after one dropped byte (41_ring_buffers.md R141, 10_state.md R26). -/
def overflowInd (mode : FaultIndMode) (old : Bool) : Bool :=
  match mode with
  | .sticky => true
  | .toggle => !old

/-- `BP.COUNT` reaches the threshold: `bp_count + 1 >= THRESH(h_rate)` (43_backpressure.md R191). -/
def thresholdHit (s : State) : Bool := decide (s.bpCount + 1 ≥ s.cfg.thresh s.hRate)

/-- A request is made and accepted: the threshold is reached with no pass in flight (43_backpressure.md R193). -/
def bpStarts (s : State) : Bool := thresholdHit s && !s.dspBusy

/-- The steps `LINK_MODEL` allows on the front byte (20_memory.md R70). -/
def linkAllows (m : LinkModel) (act : LinkAct) : Bool :=
  match m, act with
  | _, .deliver => true
  | .lossless, .drop => false
  | .lossy, .drop => true
  | .noisy, .drop => true
  | .noisy, .garble _ => true
  | .lossless, .garble _ => false
  | .lossy, .garble _ => false

end Sys2Proof.Machine
end

