-- ==== Sys2Proof/Machine/Ops.lean ====
section
/-! DEFINITION. The shared operations: the arrays, `raise` and `emit`, the two rings and the backpressure
controller (20_memory.md, 41_ring_buffers.md, 43_backpressure.md, 60_exceptions.md). Every meaning is built on
these. -/

namespace Sys2Proof.Machine

variable {β : Type}

/-! ## Arrays: lists of (index, value), indices strictly rising, an index listed exactly when its cell was
written since the reset of its half (20_memory.md R60 to R63; log 4). -/

/-- The value of a cell, if it was written. -/
def memRead : List (Nat × β) → Nat → Option β
  | [], _ => none
  | (k, v) :: rest, a => if k = a then some v else memRead rest a

/-- Writing one cell keeps the indices strictly rising. -/
def memWrite : List (Nat × β) → Nat → β → List (Nat × β)
  | [], a, v => [(a, v)]
  | (k, x) :: rest, a, v =>
    if a < k then (a, v) :: (k, x) :: rest
    else if a = k then (a, v) :: rest
    else (k, x) :: memWrite rest a v

/-- Writing consecutive cells from `base` on. -/
def memWriteFrom (m : List (Nat × β)) (base : Nat) : List β → List (Nat × β)
  | [] => m
  | v :: vs => memWriteFrom (memWrite m base v) (base + 1) vs

/-- The canonical form: strictly rising indices. -/
def Memory.wf : List (Nat × β) → Bool
  | [] => true
  | [_] => true
  | (k, _) :: (k', x') :: rest => decide (k < k') && Memory.wf ((k', x') :: rest)

/-- Reading a cell of `tx_mem`; one not written since reset holds any value (93_implementation_defined.md U3). -/
def State.txRead (s : State) (a : Nat) : Byte := (memRead s.txMem a).getD (Config.freeTxByte s.devEpoch a)

/-- Reading a cell of `hs_mem`. -/
def State.hsRead (s : State) (a : Nat) : Cell16 := (memRead s.hsMem a).getD (Config.freeHsCell s.hostEpoch a)

/-- Reading a cell of `win`. -/
def State.winRead (s : State) (a : Nat) : Cell16 := (memRead s.win a).getD (Config.freeWinCell s.hostEpoch a)

/-- The cell of `tx_mem` that `TX.PUSH` writes: `tx_head`, an index register that wraps by itself
(41_ring_buffers.md R149; log 13). -/
def State.txPushCell (s : State) : Nat := s.txHead % s.cfg.txN

/-- The cell of `tx_mem` that `TX.DRAIN` reads. -/
def State.txDrainCell (s : State) : Nat := s.txTail % s.cfg.txN

/-- The cell of `hs_mem` that `HS.WRITE` writes. -/
def State.hsWriteCell (s : State) : Nat := s.hsHead % s.cfg.hsN

/-! ## `raise` and `emit` (00_scope.md R11). A fault records itself and transfers control nowhere; nothing is
saved and there is nothing to return from (60_exceptions.md R250, R263, R264). -/

/-- `raise f`: the named fault is recorded (60_exceptions.md R250). -/
def raiseFault (f : Raised) (s : State) : State := { s with raised := f :: s.raised }

/-- `emit port(v)` (00_scope.md R11). -/
def emit (e : Emitted) (s : State) : State := { s with emitted := e :: s.emitted }

/-- The faults of the host half fail closed: `raise f ; h_conn <- FAILED` (60_exceptions.md R250 to R252). -/
def failClosed (f : Raised) (s : State) : State := { raiseFault f s with hConn := .failed }

/-! ## The TX ring -/

/-- `TX.PUSH b` (41_ring_buffers.md R141): reject-newest. -/
def txPush (b : Byte) (s : State) : State :=
  if txFull s then
    raiseFault .txOverflow { s with txFault := true, faultInd := overflowInd s.cfg.faultIndMode s.faultInd }
  else
    { s with
      txMem := memWrite s.txMem s.txPushCell b
      txHead := ringSucc s.cfg.txN s.txHead
      txDrainEn := true }

/-- Pushes in order, nothing taken between them. -/
def txPushAll (bs : List Byte) (s : State) : State := bs.foldl (fun s b => txPush b s) s

/-- `TX.DRAIN` (41_ring_buffers.md R144): the oldest byte leaves for the link. -/
def txDrain (s : State) : State :=
  if txEmpty s then { s with txDrainEn := false }
  else
    let b := s.txRead s.txDrainCell
    let tail := ringSucc s.cfg.txN s.txTail
    emit (.txByte b)
      { s with
        txTail := tail
        linkD2h := s.linkD2h ++ [b]
        txDrainEn := if s.txHead = tail then false else s.txDrainEn }

/-! ## The host sample ring -/

/-- `HS.WRITE s` (41_ring_buffers.md R146): overwrite-oldest. -/
def hsWrite (v : Cell16) (s : State) : State :=
  { s with
    hsMem := memWrite s.hsMem s.hsWriteCell v
    hsHead := ringSucc s.cfg.hsN s.hsHead
    hsCount := min (s.hsCount + 1) s.cfg.hsN }

/-- The cell `HS.READ_RECENT L` reads for its `j`-th Sample: `(hs_head − L + j) mod HS_N` (41_ring_buffers.md
R147). -/
def State.recentCell (s : State) (l j : Nat) : Nat := (ringSub s.cfg.hsN s.hsHead l + j) % s.cfg.hsN

/-- `HS.READ_RECENT L` (41_ring_buffers.md R147): the `L` most recent Samples, oldest first. -/
def readRecent (s : State) (l : Nat) : List Cell16 := (List.range l).map fun j => s.hsRead (s.recentCell l j)

/-! ## The backpressure controller -/

/-- `BP.REQ` accepted: capture the window and start a pass (43_backpressure.md R193). -/
def bpAccept (s : State) : State :=
  let l := min s.cfg.w s.hsCount
  { s with
    passL := l
    win := memWriteFrom s.win 0 (readRecent s l)
    passFs := s.hRate
    dspBusy := true }

/-- `BP.REQ`: accepted, or dropped while a pass is in flight (43_backpressure.md R193, R194). -/
def bpReq (s : State) : State := if s.dspBusy then s else bpAccept s

/-- `BP.COUNT` (43_backpressure.md R191). -/
def bpCount (s : State) : State :=
  if thresholdHit s then bpReq { s with bpCount := 0 }
  else { s with bpCount := s.bpCount + 1 }

/-- The window a pass in flight works on, oldest first (20_memory.md R63, 43_backpressure.md R195). -/
def State.window (s : State) : List Cell16 := (List.range s.passL).map s.winRead

end Sys2Proof.Machine
end

