-- ==== Sys2Proof/Machine/Codec.lean ====
section
/-! DEFINITION. The resync decoder: `DEC.HI`, `DEC.LO`, `DEC.DROP` (40_frame_codec.md R123 to R125). -/

namespace Sys2Proof.Machine

/-- `DEC.HI` (40_frame_codec.md R123): bits 6:3 are ignored, a pending high byte is replaced. -/
def execDecHi (_pad : BitVec 4) (h : BitVec 3) (s : State) : Host.Outcome State Fault Refusal :=
  .next { s with decHigh := h, decPending := true }

/-- `DEC.LO` (40_frame_codec.md R124): the Sample is delivered to the host ring and counted. Not enabled while
nothing is pending. -/
def execDecLo (l : BitVec 7) (s : State) : Host.Outcome State Fault Refusal :=
  if s.decPending then
    .next (bpCount (hsWrite (assemble s.decHigh l).toCell { s with decPending := false }))
  else .fault .notEnabled

/-- `DEC.DROP` (40_frame_codec.md R125): the byte is discarded. Not enabled while a high byte is pending. -/
def execDecDrop (_l : BitVec 7) (s : State) : Host.Outcome State Fault Refusal :=
  if s.decPending then .fault .notEnabled else .next s

end Sys2Proof.Machine
end

