-- ==== Sys2Proof/Machine/Commands.lean ====
section
/-! DEFINITION. The command channel (42_command_channel.md R160 to R168). -/

namespace Sys2Proof.Machine

/-- `CMD.START` (42_command_channel.md R161). -/
def execCmdStart (s : State) : Host.Outcome State Fault Refusal := .next { s with acq := .running }

/-- `CMD.STOP` (42_command_channel.md R162): nothing is flushed, a pending conversion still completes. -/
def execCmdStop (s : State) : Host.Outcome State Fault Refusal := .next { s with acq := .stopped }

/-- `CMD.RATE1` (42_command_channel.md R163). -/
def execCmdRate1 (s : State) : Host.Outcome State Fault Refusal := .next { s with rate := .r1 }

/-- `CMD.RATE10` (42_command_channel.md R164). -/
def execCmdRate10 (s : State) : Host.Outcome State Fault Refusal := .next { s with rate := .r10 }

/-- `CMD.RATE20` (42_command_channel.md R165). -/
def execCmdRate20 (s : State) : Host.Outcome State Fault Refusal := .next { s with rate := .r20 }

/-- Push the `k`-th byte of the response and keep the position while bytes remain (42_command_channel.md R166,
10_state.md R41). -/
def pushResponseByte (k : Nat) (b : Byte) (s : State) : State :=
  { txPush b s with hsPos := if k + 1 < response.length then some (k + 1) else none }

/-- `CMD.HANDSHAKE` (42_command_channel.md R166): the eight pushes of the response. Taken whole they are one
step; taken in sub-steps this is the first of them and the position is kept for the others (log 8). -/
def execCmdHandshake (s : State) : Host.Outcome State Fault Refusal :=
  match s.grain with
  | .whole => .next (txPushAll response s)
  | .subSteps => .next (pushResponseByte 0 (response.getD 0 0) s)

/-- `CMD.IGNORE` (42_command_channel.md R167): no state changes, nothing is sent. -/
def execCmdIgnore (_op : Byte) (s : State) : Host.Outcome State Fault Refusal := .next s

end Sys2Proof.Machine
end

