-- ==== Sys2Proof/Machine/Dispatch.lean ====
section
/-! DEFINITION. One arm per constructor of `Instr`. -/

namespace Sys2Proof.Machine

def exec (i : Instr) (s : State) : Host.Outcome State Fault Refusal :=
  match i with
  | .cmdStart => Sys2Proof.Machine.execCmdStart s
  | .cmdStop => Sys2Proof.Machine.execCmdStop s
  | .cmdRate1 => Sys2Proof.Machine.execCmdRate1 s
  | .cmdRate10 => Sys2Proof.Machine.execCmdRate10 s
  | .cmdRate20 => Sys2Proof.Machine.execCmdRate20 s
  | .cmdHandshake => Sys2Proof.Machine.execCmdHandshake s
  | .cmdIgnore op => Sys2Proof.Machine.execCmdIgnore op s
  | .decHi pad h => Sys2Proof.Machine.execDecHi pad h s
  | .decLo l => Sys2Proof.Machine.execDecLo l s
  | .decDrop l => Sys2Proof.Machine.execDecDrop l s

end Sys2Proof.Machine
end

