-- ==== Sys2Proof/Machine/Device.lean ====
section
/-! DEFINITION. The device half's operations that carry no encoding: sampling, the sub-steps written out, the drain,
and the receipt of a command byte (40_frame_codec.md R120, R121; 41_ring_buffers.md R144; 42_command_channel.md
R160). When each is enabled is in `Machine/Events.lean`. -/

namespace Sys2Proof.Machine

/-- `TICK` (40_frame_codec.md R120): while a conversion is pending the tick is absorbed. -/
def opTick (s : State) : Host.Outcome State Fault Refusal := .next (emit .convStart { s with convPending := true })

/-- `CONV.DONE s` (40_frame_codec.md R121): the Frame's two pushes, high byte first. Taken whole they are one step;
taken in sub-steps this is the first and the low byte is kept for the second (10_state.md R41; log 8). -/
def opConvDone (v : Sample) (s : State) : Host.Outcome State Fault Refusal :=
  let s := { s with convPending := false }
  match s.grain with
  | .whole => .next (txPush (encLo v.toCell) (txPush (encHi v.toCell) s))
  | .subSteps => .next { txPush (encHi v.toCell) s with convLo := some (encLo v.toCell) }

/-- The byte of the next sub-step of the operation in progress: the low byte of a `CONV.DONE`, which ends before
the `CMD.HANDSHAKE` it may stand inside goes on (40_frame_codec.md R121, 42_command_channel.md R166). -/
def nextPush (s : State) : Option Byte :=
  match s.convLo with
  | some b => some b
  | none =>
    match s.hsPos with
    | some k => response[k]?
    | none => none

/-- `TX.PUSH b` written out: the next sub-step (30_encoding.md R108, 10_state.md R41). -/
def opTxPush (b : Byte) (s : State) : Host.Outcome State Fault Refusal :=
  match s.convLo with
  | some _ => .next { txPush b s with convLo := none }
  | none =>
    match s.hsPos with
    | some k => .next (pushResponseByte k b s)
    | none => .fault .notEnabled

/-- `TX.DRAIN` (41_ring_buffers.md R144). -/
def opTxDrain (s : State) : Host.Outcome State Fault Refusal := .next (txDrain s)

/-- `CMD b` (42_command_channel.md R160): the byte is decoded in format `CMD` and its operation runs. -/
def opCmd (b : Byte) (s : State) : Host.Outcome State Fault Refusal :=
  match decode .cmd [b] with
  | .ok (i, _) => exec i s
  | .error .noByte => .fault .notEnabled

end Sys2Proof.Machine
end

