-- ==== Sys2Proof/Machine/Fft.lean ====
section
/-! DEFINITION. The FFT butterfly datapath (45_fft_butterfly.md). The working array `fft_a` lives only inside a
pass (20_memory.md R64), so it is a function from cell numbers to values and no field of the state. The
schedule is written over any values that can be added, subtracted and multiplied, with the twiddle factors as
an argument; the ideal pass takes it at the complex numbers. -/

namespace Sys2Proof.Dsp

/-- `rev_m`: an `m`-bit index with its bits in the opposite order (45_fft_butterfly.md R231). -/
def bitRev : Nat → Nat → Nat
  | 0, _ => 0
  | m + 1, n => n % 2 * 2 ^ m + bitRev m (n / 2)

section Datapath
variable {α : Type} [Add α] [Sub α] [Mul α]

/-- `BFLY(u, v, w)` (45_fft_butterfly.md R232): both results come from the old `u` and `v` (R240). -/
def bfly (u v w : α) : α × α :=
  let t := w * v
  (u + t, u - t)

/-- `BITREV` (45_fft_butterfly.md R231): cell `rev_m(n)` holds `xp[n]`; `rev_m` is its own inverse. -/
def bitRevLoad (m : Nat) (xp : Nat → α) : Nat → α := fun i => xp (bitRev m i)

/-- One stage (45_fft_butterfly.md R234). Its butterflies touch disjoint pairs of cells, so "they may be done in any
order or all at once": this is all at once (log 16), each cell as the upper or lower output of its butterfly.
`tw j span` is the twiddle factor of butterfly `j`. -/
def stage (tw : Nat → Nat → α) (s : Nat) (a : Nat → α) (i : Nat) : α :=
  let half := 2 ^ (s - 1)
  let span := 2 ^ s
  let b := i / span * span
  let j := i % span
  if j < half then (bfly (a (b + j)) (a (b + j + half)) (tw j span)).1
  else (bfly (a (b + (j - half))) (a (b + (j - half) + half)) (tw (j - half) span)).2

/-- Stages `1 .. s` in order; a stage finishes before the next begins (45_fft_butterfly.md R234). -/
def stages (tw : Nat → Nat → α) : Nat → (Nat → α) → Nat → α
  | 0, a => a
  | s + 1, a => stage tw (s + 1) (stages tw s a)

/-- The schedule for `M = 2^m` (45_fft_butterfly.md R230, R234). -/
def fft (tw : Nat → Nat → α) (m : Nat) (xp : Nat → α) : Nat → α := stages tw m (bitRevLoad m xp)

/-- One butterfly in place on the cells `p` and `q` (45_fft_butterfly.md R232, R240). -/
def bflyAt (w : α) (p q : Nat) (a : Nat → α) : Nat → α :=
  let r := bfly (a p) (a q) w
  fun i => if i = q then r.2 else if i = p then r.1 else a i

/-- One stage in the order its loops are written: for each block, for each butterfly of the block
(45_fft_butterfly.md R234). -/
def stageLoop (tw : Nat → Nat → α) (m s : Nat) (a : Nat → α) : Nat → α :=
  let half := 2 ^ (s - 1)
  let span := 2 ^ s
  (List.range (2 ^ m / span)).foldl
    (fun a c => (List.range half).foldl (fun a j => bflyAt (tw j span) (c * span + j) (c * span + j + half) a) a) a

end Datapath

/-- The twiddle factor of butterfly `j` in a stage of span `span` (45_fft_butterfly.md R233). -/
noncomputable def twiddle (j span : Nat) : ℂ := Complex.exp (-2 * Real.pi * Complex.I * j / span)

/-- The table `rom_tw` (10_state.md R43, 45_fft_butterfly.md R233). -/
noncomputable def romTw (m t : Nat) : ℂ := Complex.exp (-2 * Real.pi * Complex.I * t / m)

/-- The forward transform by its definition (44_dsp_pipeline.md R207). -/
noncomputable def dft (m : Nat) (xp : Nat → ℂ) (k : Nat) : ℂ :=
  ∑ n ∈ Finset.range m, xp n * Complex.exp (-2 * Real.pi * Complex.I * k * n / m)

end Sys2Proof.Dsp
end

