-- ==== Sys2Proof/Machine/Dsp.lean ====
section
/-! DEFINITION. The DSP pipeline over the ideal numbers (44_dsp_pipeline.md). The stages that are field
arithmetic are written over any ordered field, so that they run on rationals in tests; the pass itself is over
the real numbers, the reference of R221. `Machine/Num.lean` says what the hardware's arithmetic owes it. -/

namespace Sys2Proof.Dsp

section Field
variable {α : Type} [Field α]

/-- Stage 1, voltage conversion (44_dsp_pipeline.md R201). -/
def volts (vref adcRes : α) (r : List Nat) : List α := r.map fun (x : Nat) => (x : α) * vref / adcRes

/-- The mean `mu` (44_dsp_pipeline.md R202). -/
def mean (v : List α) : α := v.sum / (v.length : α)

/-- Stage 2, DC removal (44_dsp_pipeline.md R203). -/
def removeDc (v : List α) : List α := v.map fun x => x - mean v

/-- Stage 3, the windowed signal, `w` being the window coefficients (44_dsp_pipeline.md R205). -/
def windowed (w : Nat → α) (d : List α) : List α := d.mapIdx fun n x => x * w n

/-- The window sum `S` over the `l` coefficients (44_dsp_pipeline.md R205). -/
def windowSum (w : Nat → α) (l : Nat) : α := ((List.range l).map w).sum

/-- Stage 4, zero-padding: the signal and zeros after it (44_dsp_pipeline.md R206). -/
def padded (x : List α) (n : Nat) : α := x.getD n 0

/-- The mean of the squares, whose root is `rms` (44_dsp_pipeline.md R210). -/
def meanSquare (v : List α) : α := (v.map fun x => x * x).sum / (v.length : α)

/-- Bin `k` is at `k · fs / M` Hz (44_dsp_pipeline.md R208). -/
def binFreq (fs m k : Nat) : α := (k : α) * (fs : α) / (m : α)

variable [LinearOrder α]

/-- The least element; 0 for no element (44_dsp_pipeline.md R211, R219). -/
def leastOf : List α → α
  | [] => 0
  | x :: xs => xs.foldl min x

/-- The greatest element; 0 for no element (44_dsp_pipeline.md R211, R219). -/
def greatestOf : List α → α
  | [] => 0
  | x :: xs => xs.foldl max x

/-- The dominant bin: `(dom_f, dom_m)` of a spectrum (44_dsp_pipeline.md R213). Ascending, from `F_MIN` on, strict
maximum, starting from zero. -/
def peakSearch (fMin : α) (fs m : Nat) (spec : List α) : α × α :=
  (List.range spec.length).foldl
    (fun best k =>
      if fMin ≤ binFreq fs m k ∧ best.2 < spec.getD k 0 then (binFreq fs m k, spec.getD k 0) else best)
    (0, 0)

end Field

/-- `m = log2 M`: `M` is the smallest power of two with `M >= max(L, FFT_MIN)` (44_dsp_pipeline.md R206). -/
def fftLog (l fftMin : Nat) : Nat := Nat.clog 2 (max l fftMin)

/-- The FFT size `M` (44_dsp_pipeline.md R206). -/
def fftSize (l fftMin : Nat) : Nat := 2 ^ fftLog l fftMin

/-- The Hamming window for a window of length `l` (44_dsp_pipeline.md R204). -/
noncomputable def hamming (l n : Nat) : ℝ :=
  if l = 1 then 1 else 0.54 - 0.46 * Real.cos (2 * Real.pi * n / (l - 1))

/-- Stage 6, the magnitude of bin `k`, `x` being the transform and `s` the window sum (44_dsp_pipeline.md R209). -/
noncomputable def magnitude (s : ℝ) (x : Nat → ℂ) (k : Nat) : ℝ :=
  if k = 0 then |(x 0).re| / s else Real.sqrt ((x k).re ^ 2 + (x k).im ^ 2) * 2 / s

/-- The result for an empty window (44_dsp_pipeline.md R219). -/
def emptyResult (α : Type) [Zero α] : PassResult α where
  spec := []
  m := 0
  stats := { rms := 0, min := 0, max := 0, p2p := 0, dc := 0, domF := 0, domM := 0 }

/-- Stages 2 to 5 of a non-empty window `v` of volts: the transform the butterfly datapath computes
(44_dsp_pipeline.md R203 to R207, 45_fft_butterfly.md R230). -/
noncomputable def transform (fftMin : Nat) (v : List ℝ) : Nat → ℂ :=
  fft twiddle (fftLog v.length fftMin)
    fun n => ((padded (windowed (hamming v.length) (removeDc v)) n : ℝ) : ℂ)

/-- Stages 2 to 6: SpectrumResult, the bins `0 .. M/2 − 1` (44_dsp_pipeline.md R208, R209). -/
noncomputable def spectrum (fftMin : Nat) (v : List ℝ) : List ℝ :=
  (List.range (fftSize v.length fftMin / 2)).map
    (magnitude (windowSum (hamming v.length) v.length) (transform fftMin v))

/-- Stage 7, the statistics of a voltage sequence and of its spectrum, `m` being the FFT size (44_dsp_pipeline.md R210 to
R213). -/
noncomputable def statistics (fMin : ℝ) (fs m : Nat) (v spec : List ℝ) : Stats ℝ where
  rms := Real.sqrt (meanSquare v)
  min := leastOf v
  max := greatestOf v
  p2p := greatestOf v - leastOf v
  dc := mean v
  domF := (peakSearch fMin fs m spec).1
  domM := (peakSearch fMin fs m spec).2

/-- Stages 2 to 7 on a voltage sequence (44_dsp_pipeline.md R203 to R214; 90_conflicts.md C6). -/
noncomputable def passOfVolts (fftMin : Nat) (fMin : ℝ) (v : List ℝ) (fs : Nat) : PassResult ℝ :=
  if v = [] then emptyResult ℝ
  else
    let m := fftSize v.length fftMin
    let spec := spectrum fftMin v
    { spec := spec, m := m, stats := statistics fMin fs m v spec }

/-- `DSP.PASS(r, fs)` over the real numbers: the reference of 44_dsp_pipeline.md R200, R221. -/
noncomputable def idealPass (a : RealParams) (p : Params) (r : List Nat) (fs : Rate) : PassResult ℝ :=
  passOfVolts p.fftMin a.fMin (volts a.vref a.adcRes r) fs.hz

end Sys2Proof.Dsp
end

