-- ==== Sys2Proof/Machine/NumSpec.lean ====
section
/-! DEFINITION. What `NUM`, the hardware's arithmetic in a DSP pass, is (00_scope.md R6, 44_dsp_pipeline.md R221;
93_implementation_defined.md U11, U12): a total function for each of the seven stages, the pass being their composition.
Each stage is within a stated error `eps` of the ideal stage on what it is given in a pass, and each output of the pass is
within `eps` of the ideal pass (log 7), at the block's real parameters (log 18). The tolerances of the source's examples
hold besides (log 29). All numbers are rationals, so no infinity
and no not-a-number can reach a result register (R222). -/

namespace Sys2Proof.Dsp

/-! ## The stages and their composition -/

/-- The arithmetic of the seven stages, each a total function of what it is given and of the parameters
(00_scope.md R6 `NUM`; 44_dsp_pipeline.md R201 to R213). -/
structure NumStages where
  /-- Stage 1: the voltages of raw Samples (R201). -/
  stage1 : Params → List Nat → List ℚ
  /-- Stage 2: the voltages with their mean removed (R203). -/
  stage2 : Params → List ℚ → List ℚ
  /-- Stage 3: the windowed signal and the window sum `S` (R204, R205). -/
  stage3 : Params → List ℚ → List ℚ × ℚ
  /-- Stage 4: the zero-padded signal (R206). -/
  stage4 : Params → List ℚ → List ℚ
  /-- Stage 5: the transform, the real and the imaginary part of each bin (R207). -/
  stage5 : Params → List ℚ → List (ℚ × ℚ)
  /-- Stage 6: the magnitudes of the kept bins, from `S` and the transform (R208, R209). -/
  stage6 : Params → ℚ → List (ℚ × ℚ) → List ℚ
  /-- Stage 7: the statistics, from the voltages of stage 1 and the spectrum (R210 to R213). -/
  stage7 : Params → Rate → List ℚ → List ℚ → Stats ℚ

/-- The signal `d` of a voltage sequence `v`, its mean removed. -/
def NumStages.d (n : NumStages) (p : Params) (v : List ℚ) : List ℚ := n.stage2 p v

/-- The windowed signal `x`. -/
def NumStages.x (n : NumStages) (p : Params) (v : List ℚ) : List ℚ := (n.stage3 p (n.d p v)).1

/-- The window sum `S`. -/
def NumStages.s (n : NumStages) (p : Params) (v : List ℚ) : ℚ := (n.stage3 p (n.d p v)).2

/-- The padded signal `xp`. -/
def NumStages.xp (n : NumStages) (p : Params) (v : List ℚ) : List ℚ := n.stage4 p (n.x p v)

/-- The transform `X`. -/
def NumStages.bigX (n : NumStages) (p : Params) (v : List ℚ) : List (ℚ × ℚ) := n.stage5 p (n.xp p v)

/-- The spectrum. -/
def NumStages.spec (n : NumStages) (p : Params) (v : List ℚ) : List ℚ := n.stage6 p (n.s p v) (n.bigX p v)

/-- Stages 2 to 7 on a voltage sequence, which stage 1 made or which is given directly (90_conflicts.md C6). The FFT size
is a count and exact (44_dsp_pipeline.md R206). -/
def NumStages.fromVolts (n : NumStages) (p : Params) (v : List ℚ) (fs : Rate) : PassResult ℚ :=
  if v = [] then emptyResult ℚ
  else { spec := n.spec p v, m := fftSize v.length p.fftMin, stats := n.stage7 p fs v (n.spec p v) }

/-- `DSP.PASS(r, fs)` as the hardware computes it: the stages in order; for an empty window R219 replaces them all
(44_dsp_pipeline.md R200, R214, R219). -/
def NumStages.pass (n : NumStages) (p : Params) (r : List Nat) (fs : Rate) : PassResult ℚ :=
  if r = [] then emptyResult ℚ else n.fromVolts p (n.stage1 p r) fs

/-! ## Tolerance -/

/-- Machine numbers as the real numbers they are. -/
def toReals (xs : List ℚ) : List ℝ := xs.map fun (x : ℚ) => (x : ℝ)

/-- As many numbers as ideal ones, each within `eps` of its own. -/
structure Within (eps : ℝ) (xs : List ℚ) (ideal : List ℝ) : Prop where
  length : xs.length = ideal.length
  near : ∀ k < xs.length, |((xs.getD k 0 : ℚ) : ℝ) - ideal.getD k 0| ≤ eps

/-- Statistics within `eps` of ideal ones, those of a spectrum `spec` at the FFT size `m`. `dom_f` is discontinuous: it is
near the frequency of a bin that the search of R213 finds in some spectrum within `eps` of `spec`, so of two bins within
`2·eps` of each other either may be reported (44_dsp_pipeline.md R221; log 26). -/
structure StatsWithin (eps fMin : ℝ) (fs m : Nat) (spec : List ℝ) (s : Stats ℚ) (ideal : Stats ℝ) : Prop where
  rms : |(s.rms : ℝ) - ideal.rms| ≤ eps
  min : |(s.min : ℝ) - ideal.min| ≤ eps
  max : |(s.max : ℝ) - ideal.max| ≤ eps
  p2p : |(s.p2p : ℝ) - ideal.p2p| ≤ eps
  dc : |(s.dc : ℝ) - ideal.dc| ≤ eps
  domM : |(s.domM : ℝ) - ideal.domM| ≤ eps
  domF : ∃ near : List ℝ, near.length = spec.length ∧ (∀ k < near.length, |near.getD k 0 - spec.getD k 0| ≤ eps) ∧
    |(s.domF : ℝ) - (peakSearch fMin fs m near).1| ≤ eps

/-- On the voltage sequence `v` each of the stages 2 to 7 is within `eps` of the ideal stage on what the stage is given
(00_scope.md R6 `NUM`, 44_dsp_pipeline.md R221). Of the transform only the kept bins are asked for
(45_fft_butterfly.md R237). -/
structure VoltsConform (a : RealParams) (p : Params) (v : List ℚ) (fs : Rate) (eps : ℝ) (n : NumStages) : Prop where
  stage2 : Within eps (n.d p v) (removeDc (toReals v))
  stage3 : Within eps (n.x p v) (windowed (hamming v.length) (toReals (n.d p v)))
  windowSum : |(n.s p v : ℝ) - windowSum (hamming v.length) v.length| ≤ eps
  stage4 : Within eps (n.xp p v) ((List.range (fftSize v.length p.fftMin)).map (padded (toReals (n.x p v))))
  stage5 : ∀ k < fftSize v.length p.fftMin / 2,
    let ideal := dft (fftSize v.length p.fftMin) (fun i => ((padded (toReals (n.xp p v)) i : ℝ) : ℂ)) k
    |(((n.bigX p v).getD k 0).1 : ℝ) - ideal.re| ≤ eps ∧ |(((n.bigX p v).getD k 0).2 : ℝ) - ideal.im| ≤ eps
  stage6 : Within eps (n.spec p v) ((List.range (fftSize v.length p.fftMin / 2)).map
    (magnitude (n.s p v) fun k => ⟨((n.bigX p v).getD k 0).1, ((n.bigX p v).getD k 0).2⟩))
  stage7 : StatsWithin eps a.fMin fs.hz (fftSize v.length p.fftMin) (toReals (n.spec p v)) (n.stage7 p fs v (n.spec p v))
    (statistics a.fMin fs.hz (fftSize v.length p.fftMin) (toReals v) (toReals (n.spec p v)))

/-- Each stage of a pass over `r` at `fs` is within `eps` of the ideal stage on what the stage is given
(00_scope.md R6 `NUM`, 44_dsp_pipeline.md R221). -/
structure StagesConform (a : RealParams) (p : Params) (r : List Nat) (fs : Rate) (eps : ℝ) (n : NumStages) : Prop where
  stage1 : Within eps (n.stage1 p r) (volts a.vref a.adcRes r)
  later : VoltsConform a p (n.stage1 p r) fs eps n

/-- `res` is within `eps` of the ideal pass over `r` at `fs` (44_dsp_pipeline.md R221). -/
structure Conforms (a : RealParams) (p : Params) (r : List Nat) (fs : Rate) (eps : ℝ) (res : PassResult ℚ) :
    Prop where
  empty : r = [] → res = emptyResult ℚ
  m : res.m = (idealPass a p r fs).m
  nonneg : ∀ x ∈ res.spec, 0 ≤ x
  spec : Within eps res.spec (idealPass a p r fs).spec
  stats : StatsWithin eps a.fMin fs.hz (idealPass a p r fs).m (idealPass a p r fs).spec res.stats (idealPass a p r fs).stats

/-- A window the block can capture: at most `W` Samples, each in `0 .. 1023` (44_dsp_pipeline.md R200). -/
abbrev IsWindow (p : Params) (r : List Nat) : Prop := r.length ≤ p.w ∧ ∀ x ∈ r, x ≤ 1023

/-- `eps` bounds the error of every stage and of every output, in every pass over a window the block can capture
(00_scope.md R6 `NUM`, 44_dsp_pipeline.md R221). -/
structure IsErrorBound (a : RealParams) (n : NumStages) (eps : Params → ℝ) : Prop where
  pos : ∀ p : Params, p.Wf → 0 < eps p
  stages : ∀ (p : Params) (r : List Nat) (fs : Rate), p.Wf → IsWindow p r → r ≠ [] →
    StagesConform a p r fs (eps p) n
  conforms : ∀ (p : Params) (r : List Nat) (fs : Rate), p.Wf → IsWindow p r → Conforms a p r fs (eps p) (n.pass p r fs)

/-- Some error bounds the stages 2 to 7 on every voltage sequence given directly that is not empty, no longer than `b` and
nowhere more than `b` volts from 0, for every `b` (90_conflicts.md C6, 44_dsp_pipeline.md R221). -/
def BoundedOnVolts (a : RealParams) (n : NumStages) : Prop :=
  ∀ (p : Params) (b : Nat), p.Wf → ∃ eps : ℝ, ∀ (v : List ℚ) (fs : Rate), v ≠ [] → v.length ≤ b →
    (∀ x ∈ v, |x| ≤ b) → VoltsConform a p v fs eps n

/-- Machine numbers within `10⁻⁹` of the samples of the source's sine: 1.0 V, 50 Hz, sampled at 1000 Hz
(95_test_vectors.md T13). -/
def IsSine (v : List ℚ) : Prop :=
  ∀ k < v.length, |((v.getD k 0 : ℚ) : ℝ) - Real.sin (2 * Real.pi * 50 * k / 1000)| ≤ 1 / 10 ^ 9

/-- The tolerances of the source's examples, which are the only numeric requirements a source states
(44_dsp_pipeline.md R221; 95_test_vectors.md E5, E7, with the inputs of T13, T13b, T17, T18; log 29). -/
structure MeetsExamples (a : RealParams) (n : NumStages) : Prop where
  /-- Raw 512 gives 2.5 V, and raw 0, 512, 1023 give 0, 2.5, 5 V, each within 0.05 V, at the defaults of R6. -/
  voltage : a.vref = 5 → a.adcRes = 1024 → ∀ p : Params, p.Wf →
    Within 0.05 (n.stage1 p [512]) [2.5] ∧ Within 0.05 (n.stage1 p [0, 512, 1023]) [0, 2.5, 5]
  /-- 100 voltages of 5.0 V have an rms within 0.001 of 5. -/
  dcRms : ∀ (p : Params) (fs : Rate), p.Wf →
    |((n.fromVolts p (List.replicate 100 5) fs).stats.rms : ℝ) - 5| ≤ 0.001
  /-- 1000 or more samples of the sine have an rms within 0.01 of 0.707. -/
  sineRms : ∀ (p : Params) (v : List ℚ), p.Wf → IsSine v → 1000 ≤ v.length →
    |((n.fromVolts p v .r1).stats.rms : ℝ) - 0.707| ≤ 0.01
  /-- 1024 samples of the sine have a dominant frequency within 1.5 Hz of 50, at the default `F_MIN`. -/
  sineFreq : a.fMin = 2 → ∀ (p : Params) (v : List ℚ), p.Wf → IsSine v → v.length = 1024 →
    |((n.fromVolts p v .r1).stats.domF : ℝ) - 50| ≤ 1.5

/-- A numeric realisation of the DSP pipeline at the block's real parameters: within some error of the ideal one, the size
of which R221 leaves OPEN, and within the named tolerances on the source's examples (44_dsp_pipeline.md R221). -/
structure NumRealisation extends NumStages where
  bounded : ∃ eps, IsErrorBound Config.reals toNumStages eps
  boundedOnVolts : BoundedOnVolts Config.reals toNumStages
  examples : MeetsExamples Config.reals toNumStages

/-- The stated error of a realisation, OPEN but for what bounds it (44_dsp_pipeline.md R221). -/
noncomputable def NumRealisation.eps (n : NumRealisation) : Params → ℝ := n.bounded.choose

theorem NumRealisation.eps_bounds (n : NumRealisation) : IsErrorBound Config.reals n.toNumStages n.eps :=
  n.bounded.choose_spec

end Sys2Proof.Dsp
end

