-- ==== Sys2Proof/Machine/NumBound.lean ====
section
/-! DEFINITION. The type of realisations has an element, which the opaque constant of `Machine/Num.lean` needs: the
source's examples answered, all other numbers zero, with an error large enough for the finitely many windows the block
can capture. It is not the machine's arithmetic. -/

namespace Sys2Proof.Dsp

/-- The answers of the source's examples, and zeros, as many as a pass asks for. -/
def crudeStages : NumStages where
  stage1 _ r := volts 5 1024 r
  stage2 _ v := v.map fun _ => 0
  stage3 _ d := (d.map fun _ => 0, 0)
  stage4 p x := List.replicate (fftSize x.length p.fftMin) 0
  stage5 _ xp := xp.map fun _ => (0, 0)
  stage6 _ _ y := List.replicate (y.length / 2) 0
  stage7 _ _ v _ :=
    { (emptyResult ℚ).stats with
      rms := if v.length < 1000 then 5 else 0.707
      domF := if v.length = 1024 then 50 else 0 }

variable (a : RealParams) (p : Params) (v : List ℚ) (fs : Rate)

theorem crude_d : crudeStages.d p v = List.replicate v.length 0 := List.map_const' ..

theorem crude_x : crudeStages.x p v = List.replicate v.length 0 := by
  rw [show crudeStages.x p v = (crudeStages.d p v).map fun _ => 0 from rfl, crude_d, List.map_const', List.length_replicate]

theorem crude_xp : crudeStages.xp p v = List.replicate (fftSize v.length p.fftMin) 0 := by
  rw [show crudeStages.xp p v = List.replicate (fftSize (crudeStages.x p v).length p.fftMin) 0 from rfl, crude_x,
    List.length_replicate]

theorem crude_bigX : crudeStages.bigX p v = List.replicate (fftSize v.length p.fftMin) (0, 0) := by
  rw [show crudeStages.bigX p v = (crudeStages.xp p v).map fun _ => (0, 0) from rfl, crude_xp, List.map_const',
    List.length_replicate]

theorem crude_spec : crudeStages.spec p v = List.replicate (fftSize v.length p.fftMin / 2) 0 := by
  rw [show crudeStages.spec p v = List.replicate ((crudeStages.bigX p v).length / 2) 0 from rfl, crude_bigX,
    List.length_replicate]

theorem crude_fromVolts (hv : v ≠ []) : (crudeStages.fromVolts p v fs).stats =
    { (emptyResult ℚ).stats with
      rms := if v.length < 1000 then 5 else 0.707
      domF := if v.length = 1024 then 50 else 0 } := by
  rw [NumStages.fromVolts, if_neg hv]
  rfl

/-! ## Every error that is large enough -/

open Filter

theorem eventually_within {xs : List ℚ} {ideal : List ℝ} (h : xs.length = ideal.length) :
    ∀ᶠ eps in atTop, Within eps xs ideal := by
  have := (eventually_all_finite (Set.finite_lt_nat xs.length)).2 fun k _ =>
    eventually_ge_atTop |((xs.getD k 0 : ℚ) : ℝ) - ideal.getD k 0|
  filter_upwards [this] with eps he using ⟨h, he⟩

theorem eventually_statsWithin (fMin : ℝ) (hz m : Nat) (spec : List ℝ) (s : Stats ℚ) (ideal : Stats ℝ) :
    ∀ᶠ eps in atTop, StatsWithin eps fMin hz m spec s ideal := by
  filter_upwards [eventually_ge_atTop (0 : ℝ), eventually_ge_atTop |(s.rms : ℝ) - ideal.rms|,
    eventually_ge_atTop |(s.min : ℝ) - ideal.min|, eventually_ge_atTop |(s.max : ℝ) - ideal.max|,
    eventually_ge_atTop |(s.p2p : ℝ) - ideal.p2p|, eventually_ge_atTop |(s.dc : ℝ) - ideal.dc|,
    eventually_ge_atTop |(s.domM : ℝ) - ideal.domM|,
    eventually_ge_atTop |(s.domF : ℝ) - (peakSearch fMin hz m spec).1|] with eps h0 h1 h2 h3 h4 h5 h6 h7
  exact ⟨h1, h2, h3, h4, h5, h6, spec, rfl, fun k _ => by simpa using h0, h7⟩

/-! ## Voltage sequences of bounded length and size -/

theorem getD_toReals_replicate_zero (l k : Nat) : (toReals (List.replicate l 0)).getD k 0 = 0 := by
  rw [toReals, List.map_replicate, Rat.cast_zero, List.getD_eq_getElem?_getD, List.getElem?_replicate]
  split <;> rfl

theorem abs_mean_le {v : List ℝ} {b : ℝ} (hb : 0 ≤ b) (h : ∀ x ∈ v, |x| ≤ b) : |mean v| ≤ b := by
  have hs : |v.sum| ≤ v.length * b := by
    induction v with
    | nil => simp
    | cons x xs ih =>
      have h1 := ih fun y hy => h y (List.mem_cons_of_mem _ hy)
      have h2 := abs_add_le x xs.sum
      have h3 := h x List.mem_cons_self
      push_cast [List.sum_cons, List.length_cons]
      linarith
  rcases Nat.eq_zero_or_pos v.length with h0 | h0
  · simpa [mean, h0] using hb
  · have h0' : (0 : ℝ) < v.length := by exact_mod_cast h0
    rw [mean, abs_div, abs_of_pos h0', div_le_iff₀ h0']
    linarith

theorem abs_foldl_le {f : ℝ → ℝ → ℝ} {b : ℝ} (hf : ∀ x y, f x y = x ∨ f x y = y) (xs : List ℝ) (x : ℝ) (hx : |x| ≤ b)
    (h : ∀ y ∈ xs, |y| ≤ b) : |xs.foldl f x| ≤ b := by
  induction xs generalizing x with
  | nil => exact hx
  | cons y ys ih =>
    refine ih _ ?_ fun z hz => h z (List.mem_cons_of_mem _ hz)
    rcases hf x y with he | he <;> rw [he]
    · exact hx
    · exact h y List.mem_cons_self

theorem abs_leastOf_le {v : List ℝ} {b : ℝ} (hb : 0 ≤ b) (h : ∀ x ∈ v, |x| ≤ b) : |leastOf v| ≤ b := by
  cases v with
  | nil => simpa [leastOf] using hb
  | cons x xs =>
    exact abs_foldl_le min_choice xs x (h x List.mem_cons_self) fun y hy => h y (List.mem_cons_of_mem _ hy)

theorem abs_greatestOf_le {v : List ℝ} {b : ℝ} (hb : 0 ≤ b) (h : ∀ x ∈ v, |x| ≤ b) : |greatestOf v| ≤ b := by
  cases v with
  | nil => simpa [greatestOf] using hb
  | cons x xs =>
    exact abs_foldl_le max_choice xs x (h x List.mem_cons_self) fun y hy => h y (List.mem_cons_of_mem _ hy)

theorem sqrt_meanSquare_le {v : List ℝ} {b : ℝ} (hb : 0 ≤ b) (h : ∀ x ∈ v, |x| ≤ b) : Real.sqrt (meanSquare v) ≤ b := by
  refine Real.sqrt_le_iff.2 ⟨hb, ?_⟩
  have he : meanSquare v = mean (v.map fun x => x * x) := by simp [meanSquare, mean]
  rw [he]
  refine (le_abs_self _).trans (abs_mean_le (by positivity) fun y hy => ?_)
  obtain ⟨x, hx, rfl⟩ := List.mem_map.1 hy
  rw [abs_mul, sq]
  exact mul_self_le_mul_self (abs_nonneg x) (h x hx)

theorem abs_hamming_le (l n : Nat) : |hamming l n| ≤ 1 := by
  unfold hamming
  split
  · simp
  · have h1 := Real.neg_one_le_cos (2 * Real.pi * n / ((l : ℝ) - 1))
    have h2 := Real.cos_le_one (2 * Real.pi * n / ((l : ℝ) - 1))
    exact abs_le.2 ⟨by linarith, by linarith⟩

theorem abs_windowSum_le (l : Nat) : |windowSum (hamming l) l| ≤ l := by
  have h : ∀ n : Nat, |((List.range n).map (hamming l)).sum| ≤ n := by
    intro n
    induction n with
    | zero => simp
    | succ n ih =>
      rw [List.range_succ, List.map_append, List.sum_append]
      have h1 := abs_add_le ((List.range n).map (hamming l)).sum ([n].map (hamming l)).sum
      have h2 := abs_hamming_le l n
      simp only [List.map_cons, List.map_nil, List.sum_cons, List.sum_nil, add_zero] at h1 ⊢
      push_cast
      linarith
  exact h l

theorem peakSearch_replicate_zero (fMin : ℝ) (hz m l : Nat) : peakSearch fMin hz m (toReals (List.replicate l 0)) = (0, 0) := by
  unfold peakSearch
  generalize (toReals (List.replicate l 0)).length = n
  induction n with
  | zero => rfl
  | succ n ih =>
    rw [List.range_succ, List.foldl_append, ih]
    simp only [List.foldl_cons, List.foldl_nil, getD_toReals_replicate_zero, lt_self_iff_false, and_false, if_false]

theorem dft_zero (m k : Nat) : dft m (fun _ => 0) k = 0 := by simp [dft]

/-- All errors of the crude stages on a voltage sequence of length and size at most `b`. -/
theorem crude_voltsConform {b : Nat} {eps : ℝ} (he : 2 * b + 60 ≤ eps) (hlen : v.length ≤ b) (hb : ∀ x ∈ v, |x| ≤ b) :
    VoltsConform a p v fs eps crudeStages := by
  have hb0 : (0 : ℝ) ≤ b := Nat.cast_nonneg b
  have h0 : 0 ≤ eps := by linarith
  have hv : ∀ y ∈ toReals v, |y| ≤ (b : ℝ) := by
    intro y hy
    obtain ⟨x, hx, rfl⟩ := List.mem_map.1 hy
    exact_mod_cast hb x hx
  have hmean := abs_mean_le hb0 hv
  have hleast := abs_leastOf_le hb0 hv
  have hgreat := abs_greatestOf_le hb0 hv
  have hrms := sqrt_meanSquare_le hb0 hv
  have hrms0 := Real.sqrt_nonneg (meanSquare (toReals v))
  have hz : ∀ l k, (List.replicate l (0 : ℚ)).getD k 0 = 0 := by
    intro l k
    rw [List.getD_eq_getElem?_getD, List.getElem?_replicate]
    split <;> rfl
  have hz2 : ∀ l k, (List.replicate l ((0, 0) : ℚ × ℚ)).getD k 0 = 0 := by
    intro l k
    rw [List.getD_eq_getElem?_getD, List.getElem?_replicate]
    split <;> rfl
  constructor
  case stage2 =>
    refine ⟨by simp [crude_d, removeDc, toReals], fun k hk => ?_⟩
    rw [crude_d] at hk ⊢
    have hk' : k < (toReals v).length := by simpa [toReals] using hk
    rw [hz, removeDc, List.getD_eq_getElem _ _ (by simpa using hk'), List.getElem_map, Rat.cast_zero, zero_sub, abs_neg]
    have h1 := hv _ (List.getElem_mem hk')
    have h2 := abs_sub ((toReals v)[k]) (mean (toReals v))
    linarith
  case stage3 =>
    refine ⟨by simp [crude_x, crude_d, windowed, toReals], fun k hk => ?_⟩
    have hw : (windowed (hamming v.length) (toReals (crudeStages.d p v))).getD k 0 = 0 := by
      rw [crude_d, windowed, List.getD_eq_getElem?_getD, List.getElem?_mapIdx, toReals, List.map_replicate,
        List.getElem?_replicate]
      split <;> simp
    rw [crude_x, hz, hw]
    simpa using h0
  case windowSum =>
    have h1 := abs_windowSum_le v.length
    have h2 : (v.length : ℝ) ≤ b := by exact_mod_cast hlen
    have hs : crudeStages.s p v = 0 := rfl
    rw [hs, Rat.cast_zero, zero_sub, abs_neg]
    linarith
  case stage4 =>
    refine ⟨by simp [crude_xp], fun k hk => ?_⟩
    rw [crude_xp, List.length_replicate] at hk
    rw [crude_xp, hz, crude_x, List.getD_eq_getElem _ _ (by simpa using hk), List.getElem_map, List.getElem_range, padded,
      getD_toReals_replicate_zero]
    simpa using h0
  case stage5 =>
    intro k _
    have hx : (fun i => ((padded (toReals (crudeStages.xp p v)) i : ℝ) : ℂ)) = fun _ => 0 := by
      funext i
      rw [crude_xp, padded, getD_toReals_replicate_zero, Complex.ofReal_zero]
    rw [hx, dft_zero, crude_bigX, hz2]
    simpa using h0
  case stage6 =>
    refine ⟨by simp [crude_spec], fun k hk => ?_⟩
    rw [crude_spec, List.length_replicate] at hk
    rw [crude_spec, hz, List.getD_eq_getElem _ _ (by simpa using hk), List.getElem_map, List.getElem_range, crude_bigX]
    have hs : crudeStages.s p v = 0 := rfl
    rw [hs]
    simpa [magnitude] using h0
  case stage7 =>
    rw [crude_spec]
    have hpeak := peakSearch_replicate_zero a.fMin fs.hz (fftSize v.length p.fftMin) (fftSize v.length p.fftMin / 2)
    have hr : |((if v.length < 1000 then 5 else 0.707 : ℚ) : ℝ)| ≤ 5 := by split <;> norm_num
    have hf : |((if v.length = 1024 then 50 else 0 : ℚ) : ℝ)| ≤ 50 := by split <;> norm_num
    constructor
    case rms =>
      have := abs_sub ((if v.length < 1000 then 5 else 0.707 : ℚ) : ℝ) (Real.sqrt (meanSquare (toReals v)))
      rw [abs_of_nonneg hrms0] at this
      exact this.trans (by linarith)
    case min =>
      simp only [crudeStages, emptyResult, statistics, Rat.cast_zero, zero_sub, abs_neg]
      linarith
    case max =>
      simp only [crudeStages, emptyResult, statistics, Rat.cast_zero, zero_sub, abs_neg]
      linarith
    case p2p =>
      simp only [crudeStages, emptyResult, statistics, Rat.cast_zero, zero_sub, abs_neg]
      have := abs_sub (greatestOf (toReals v)) (leastOf (toReals v))
      linarith
    case dc =>
      simp only [crudeStages, emptyResult, statistics, Rat.cast_zero, zero_sub, abs_neg]
      linarith
    case domM =>
      simp only [crudeStages, emptyResult, statistics, hpeak, Rat.cast_zero, sub_zero, abs_zero]
      exact h0
    case domF =>
      refine ⟨_, rfl, fun k _ => by simpa using h0, ?_⟩
      rw [hpeak, sub_zero]
      exact hf.trans (by linarith)

/-! ## Windows -/

theorem crude_stage1_length (r : List Nat) : (crudeStages.stage1 p r).length = r.length := by simp [crudeStages, volts]

theorem crude_stage1_le {r : List Nat} (hr : IsWindow p r) : ∀ x ∈ crudeStages.stage1 p r, |x| ≤ ((p.w + 5 : Nat) : ℚ) := by
  intro x hx
  obtain ⟨n, hn, rfl⟩ := List.mem_map.1 hx
  have h1 : (n : ℚ) ≤ 1023 := by exact_mod_cast hr.2 n hn
  have h2 : (0 : ℚ) ≤ p.w := Nat.cast_nonneg _
  rw [abs_of_nonneg (by positivity), div_le_iff₀ (by norm_num)]
  push_cast
  linarith

theorem eventually_stagesConform {r : List Nat} (hr : IsWindow p r) :
    ∀ᶠ eps in atTop, StagesConform a p r fs eps crudeStages := by
  filter_upwards [eventually_within (xs := crudeStages.stage1 p r) (ideal := volts a.vref a.adcRes r)
    (by simp [crudeStages, volts]), eventually_ge_atTop (2 * ((p.w + 5 : Nat) : ℝ) + 60)] with eps h1 h2
  exact ⟨h1, crude_voltsConform a p _ fs h2 (by rw [crude_stage1_length]; have := hr.1; omega) (crude_stage1_le p hr)⟩

theorem eventually_conforms (r : List Nat) : ∀ᶠ eps in atTop, Conforms a p r fs eps (crudeStages.pass p r fs) := by
  have hn : r ≠ [] → crudeStages.stage1 p r ≠ [] := fun h he => h (List.length_eq_zero_iff.1 (by
    rw [← crude_stage1_length p r, he, List.length_nil]))
  have hlen : (crudeStages.pass p r fs).spec.length = (idealPass a p r fs).spec.length := by
    by_cases h : r = []
    · simp [NumStages.pass, idealPass, passOfVolts, volts, h, emptyResult]
    · simp [NumStages.pass, NumStages.fromVolts, idealPass, passOfVolts, h, hn h, spectrum, crude_spec, crude_stage1_length,
        volts]
  filter_upwards [eventually_within hlen,
    eventually_statsWithin a.fMin fs.hz (idealPass a p r fs).m (idealPass a p r fs).spec (crudeStages.pass p r fs).stats
      (idealPass a p r fs).stats] with eps h1 h2
  refine ⟨fun h => by simp [NumStages.pass, h], ?_, ?_, h1, h2⟩
  · by_cases h : r = []
    · simp [NumStages.pass, idealPass, passOfVolts, volts, h, emptyResult]
    · simp [NumStages.pass, NumStages.fromVolts, idealPass, passOfVolts, h, hn h, crude_stage1_length, volts]
  · intro x hx
    by_cases h : r = []
    · simp [NumStages.pass, h, emptyResult] at hx
    · rw [NumStages.pass, if_neg h, NumStages.fromVolts, if_neg (hn h)] at hx
      rw [crude_spec] at hx
      rw [List.eq_of_mem_replicate hx]

/-- The block can capture finitely many windows. -/
theorem finite_isWindow : {r : List Nat | IsWindow p r}.Finite := by
  refine ((List.finite_length_le (Fin 1024) p.w).image (List.map Fin.val)).subset fun r hr => ?_
  refine ⟨r.attach.map fun x => ⟨x.1, Nat.lt_succ_of_le (hr.2 x.1 x.2)⟩, by simpa using hr.1, ?_⟩
  simp

theorem crude_errorBound : ∃ eps, IsErrorBound a crudeStages eps := by
  have h : ∀ p : Params, ∃ e : ℝ, 0 < e ∧ ∀ r, IsWindow p r → ∀ fs : Rate,
      StagesConform a p r fs e crudeStages ∧ Conforms a p r fs e (crudeStages.pass p r fs) := by
    intro p
    have hfs : ∀ r, IsWindow p r → ∀ᶠ e in atTop, ∀ fs : Rate,
        StagesConform a p r fs e crudeStages ∧ Conforms a p r fs e (crudeStages.pass p r fs) := by
      intro r hr
      filter_upwards [eventually_stagesConform a p .r1 hr, eventually_conforms a p .r1 r,
        eventually_stagesConform a p .r10 hr, eventually_conforms a p .r10 r,
        eventually_stagesConform a p .r20 hr, eventually_conforms a p .r20 r] with e h1 h2 h3 h4 h5 h6 fs
      cases fs
      · exact ⟨h1, h2⟩
      · exact ⟨h3, h4⟩
      · exact ⟨h5, h6⟩
    exact ((eventually_gt_atTop 0).and ((eventually_all_finite (finite_isWindow p)).2 hfs)).exists
  choose eps hpos hall using h
  exact ⟨eps, fun p _ => hpos p, fun p r fs _ hr _ => (hall p r hr fs).1, fun p r fs _ hr => (hall p r hr fs).2⟩

theorem crude_boundedOnVolts : BoundedOnVolts a crudeStages :=
  fun p b _ => ⟨2 * b + 60, fun v fs _ hlen hb => crude_voltsConform a p v fs le_rfl hlen hb⟩

theorem crude_meetsExamples : MeetsExamples a crudeStages where
  voltage _ _ p _ := by
    have h : crudeStages.stage1 p [512] = [2.5] ∧ crudeStages.stage1 p [0, 512, 1023] = [0, 2.5, 5115 / 1024] := by
      constructor <;> norm_num [crudeStages, volts]
    rw [h.1, h.2]
    refine ⟨⟨rfl, fun k hk => ?_⟩, rfl, fun k hk => ?_⟩
    · obtain rfl : k = 0 := by simpa using hk
      norm_num
    · have hk' : k < 3 := hk
      interval_cases k <;> norm_num [abs_le]
  dcRms p fs _ := by
    rw [crude_fromVolts p _ fs (by simp)]
    norm_num
  sineRms p v _ _ hl := by
    rw [crude_fromVolts p v .r1 (by rintro rfl; simp at hl)]
    norm_num [Nat.not_lt.2 hl]
  sineFreq _ p v _ _ hl := by
    rw [crude_fromVolts p v .r1 (by rintro rfl; simp at hl)]
    norm_num [hl]

/-- Some realisation: what makes the type of realisations not empty. -/
def someRealisation : NumRealisation where
  toNumStages := crudeStages
  bounded := crude_errorBound Config.reals
  boundedOnVolts := crude_boundedOnVolts Config.reals
  examples := crude_meetsExamples Config.reals

end Sys2Proof.Dsp
end

