-- ==== Sys2Proof/Machine/Num.lean ====
section
/-! DEFINITION. `NUM` itself: an opaque numeric realisation of the DSP pipeline (44_dsp_pipeline.md R221; log 7). -/

namespace Sys2Proof

/-- A realisation of `NUM`, without a body: nothing is known of it but that it is one. -/
opaque Config.numOf [Inhabited Dsp.NumRealisation] : Dsp.NumRealisation

/-- `NUM` (00_scope.md R6, 44_dsp_pipeline.md R221): the block's numeric realisation, OPEN. -/
def Config.num : Dsp.NumRealisation := @Config.numOf ⟨Dsp.someRealisation⟩

end Sys2Proof
end

