-- ==== Sys2Proof/Machine/HostSide.lean ====
section
/-! DEFINITION. The host half's operations that carry no encoding: sending commands, the connection state machine,
the receipt of a byte, and the end of a DSP pass (42_command_channel.md R170 to R179; 43_backpressure.md R196).
When each is enabled is in `Machine/Events.lean`. -/

namespace Sys2Proof.Machine

/-- `emit host_tx_byte(b)`: the byte is appended to `link_h2d` (42_command_channel.md R170, R171). -/
def hostTx (b : Byte) (s : State) : State := emit (.hostTxByte b) { s with linkH2d := s.linkH2d ++ [b] }

/-- The host's copy of the configuration changes when a command is sent (42_command_channel.md R170). -/
def hostNote (c : HostCmd) (s : State) : State :=
  match c with
  | .start => { s with hActive := .running }
  | .stop => { s with hActive := .stopped }
  | .rate1 => { s with hRate := .r1 }
  | .rate10 => { s with hRate := .r10 }
  | .rate20 => { s with hRate := .r20 }

/-- `HOST.SEND c` (42_command_channel.md R170). -/
def opHostSend (c : HostCmd) (s : State) : Host.Outcome State Fault Refusal :=
  .next (hostNote c (hostTx (encodeByte c.instr) s))

/-- `HOST.CONNECT` (42_command_channel.md R171): nothing of an earlier session is reset but `hs_rx`. -/
def opHostConnect (s : State) : Host.Outcome State Fault Refusal :=
  .next (hostTx (encodeByte .cmdHandshake) { s with hsRx := [], hConn := .handshaking })

/-- `HOST.TIMEOUT` (42_command_channel.md R176). -/
def opHostTimeout (s : State) : Host.Outcome State Fault Refusal := .next (failClosed .protocolTimeout s)

/-- `HOST.DISCONNECT` (42_command_channel.md R177): nothing is sent to the device. -/
def opHostDisconnect (s : State) : Host.Outcome State Fault Refusal := .next { s with hConn := .disconnected }

/-- `HOST.XFAULT` (42_command_channel.md R178). -/
def opHostXfault (s : State) : Host.Outcome State Fault Refusal := .next (failClosed .transportFault s)

/-- `HS.ACCEPT` (42_command_channel.md R174). -/
def hsAccept (s : State) : State := { s with hConn := .connected }

/-- `HS.REJECT` (42_command_channel.md R175). -/
def hsReject (s : State) : State := failClosed .protocolMismatch s

/-- `HOST.HS_RX b` (42_command_channel.md R173): the eighth byte decides. -/
def collectHandshake (b : Byte) (s : State) : State :=
  let rx := s.hsRx ++ [b]
  let s := { s with hsRx := rx }
  if rx.length = 8 then
    if rx = response then hsAccept s else hsReject s
  else s

/-- `HOST.RX b` (42_command_channel.md R172): collected while handshaking, decoded while connected, else
discarded. -/
def opHostRx (b : Byte) (s : State) : Host.Outcome State Fault Refusal :=
  match s.hConn with
  | .handshaking => .next (collectHandshake b s)
  | .connected =>
    match decode (.data s.decPending) [b] with
    | .ok (i, _) => exec i s
    | .error .noByte => .fault .notEnabled
  | .disconnected => .next s
  | .failed => .next s

/-- `HS.READ_RECENT L` by the consumer (41_ring_buffers.md R147): what it returns is `readRecent s L`, and no
state changes (log 23). -/
def opReadRecent (_l : Nat) (s : State) : Host.Outcome State Fault Refusal := .next s

/-- All result registers are written in one step (10_state.md R42, 20_memory.md R76). -/
def publish (r : PassResult ℚ) (s : State) : State :=
  { s with
    resSpec := r.spec
    resM := r.m
    resFs := s.passFs
    resStats := r.stats
    resValid := true
    dspBusy := false }

/-- The raw Samples of the window in flight as numbers (43_backpressure.md R195). -/
def State.rawWindow (s : State) : List Nat := s.window.map BitVec.toNat

/-- `DSP.DONE` (43_backpressure.md R196): the pass over the captured window, by the block's arithmetic `NUM`, is
published. -/
def opDspDone (s : State) : Host.Outcome State Fault Refusal :=
  .next (publish (Config.num.pass s.cfg s.rawWindow s.passFs) s)

end Sys2Proof.Machine
end

