-- ==== Sys2Proof/Machine/Link.lean ====
section
/-! DEFINITION. The serial link: two first-in first-out queues (20_memory.md R70). -/

namespace Sys2Proof.Machine

/-- `LINK.D2H.*`: the front byte of `link_d2h` is delivered to `HOST.RX`, lost, or delivered changed. -/
def opLinkD2h (act : LinkAct) (s : State) : Host.Outcome State Fault Refusal :=
  match s.linkD2h with
  | [] => .fault .notEnabled
  | b :: rest =>
    let s := { s with linkD2h := rest }
    match act with
    | .deliver => opHostRx b s
    | .drop => .next s
    | .garble b' => opHostRx b' s

/-- `LINK.H2D.*`: the front byte of `link_h2d` is delivered to `CMD`, lost, or delivered changed. -/
def opLinkH2d (act : LinkAct) (s : State) : Host.Outcome State Fault Refusal :=
  match s.linkH2d with
  | [] => .fault .notEnabled
  | b :: rest =>
    let s := { s with linkH2d := rest }
    match act with
    | .deliver => opCmd b s
    | .drop => .next s
    | .garble b' => opCmd b' s

end Sys2Proof.Machine
end

