-- ==== Sys2Proof/Machine/Resets.lean ====
section
/-! DEFINITION. The two resets (70_reset_and_hazards.md R280 to R284). What a reset leaves unspecified holds a
fresh free value: the arrays list nothing, so that every cell reads as one, and the registers take one (log 6). -/

namespace Sys2Proof.Machine

/-- What `DEV.RESET` leaves of the device half; the host half and the link are unchanged, and an operation in
progress is abandoned (70_reset_and_hazards.md R281). -/
def deviceReset (s : State) : State :=
  { s with
    acq := .stopped
    rate := s.cfg.resetRate
    txHead := 0
    txTail := 0
    txMem := []
    txDrainEn := false
    txFault := false
    faultInd := false
    convPending := false
    hsPos := none
    convLo := none
    devEpoch := s.devEpoch + 1 }

/-- `DEV.RESET` (70_reset_and_hazards.md R281). A reset by the watchdog is the fault `WatchdogReset`, which is
reported nowhere (60_exceptions.md R250, R258; log 20). -/
def opDevReset (cause : ResetCause) (s : State) : Host.Outcome State Fault Refusal :=
  match cause with
  | .powerOn => .next (deviceReset s)
  | .watchdog => .next (deviceReset (raiseFault .watchdogReset s))
  | .linkOpen => .next (deviceReset s)

/-- What `HOST.RESET` leaves of the host half; the device half and the link are unchanged
(70_reset_and_hazards.md R282). -/
def hostHalfReset (s : State) : State :=
  let e := s.hostEpoch + 1
  { s with
    decPending := false
    decHigh := Config.freeDecHigh e
    hsHead := 0
    hsCount := 0
    hsMem := []
    bpCount := 0
    dspBusy := false
    win := []
    passL := Config.freePassL e
    passFs := Config.freePassFs e
    resValid := false
    resSpec := Config.freeResSpec e
    resM := Config.freeResM e
    resFs := Config.freeResFs e
    resStats := Config.freeResStats e
    hActive := .stopped
    hRate := s.cfg.resetRate
    hConn := .disconnected
    hsRx := []
    hostEpoch := e }

/-- `HOST.RESET` (70_reset_and_hazards.md R282). -/
def opHostReset (s : State) : Host.Outcome State Fault Refusal := .next (hostHalfReset s)

end Sys2Proof.Machine
end

