-- ==== Sys2Proof/Machine/Events.lean ====
section
/-! DEFINITION. When each operation is enabled, and the step it takes (00_scope.md R12, 60_exceptions.md R256, R262). -/

namespace Sys2Proof.Machine

/-- No `CONV.DONE` is between its two pushes. Between them only `TX.DRAIN` of the device's own operations may be
taken (40_frame_codec.md R121; log 9). -/
def convIdle (s : State) : Bool := s.convLo.isNone

/-- The device can take a command byte: neither operation with sub-steps is in progress
(40_frame_codec.md R121, 42_command_channel.md R166). -/
def cmdReady (s : State) : Bool := s.convLo.isNone && s.hsPos.isNone

/-- The "enabled when" condition of each operation. -/
def enabled (e : Event) (s : State) : Bool :=
  match e with
  | .devReset _ => true
  | .hostReset => true
  | .tick => s.acq == .running && convIdle s
  | .convDone _ => s.convPending && convIdle s
  | .txPush b => nextPush s == some b
  | .txDrain => s.txDrainEn
  | .linkD2h act => !s.linkD2h.isEmpty && linkAllows s.cfg.linkModel act
  | .linkH2d .drop => !s.linkH2d.isEmpty && linkAllows s.cfg.linkModel .drop
  | .linkH2d act => !s.linkH2d.isEmpty && linkAllows s.cfg.linkModel act && cmdReady s
  | .cmd _ => cmdReady s
  | .hostSend _ => s.hConn == .connected
  | .hostConnect => s.hConn == .disconnected || s.hConn == .failed
  | .hostTimeout => s.hConn == .handshaking
  | .hostDisconnect => true
  | .hostXfault => s.hConn == .handshaking || s.hConn == .connected
  | .hostRx _ => true
  | .hsReadRecent l => decide (l ≤ s.hsCount)
  | .dspDone => s.dspBusy
  | .setGrain _ => true

/-- The step of an operation, whether or not it is enabled. -/
def take (e : Event) (s : State) : Host.Outcome State Fault Refusal :=
  match e with
  | .devReset cause => opDevReset cause s
  | .hostReset => opHostReset s
  | .tick => opTick s
  | .convDone v => opConvDone v s
  | .txPush b => opTxPush b s
  | .txDrain => opTxDrain s
  | .linkD2h act => opLinkD2h act s
  | .linkH2d act => opLinkH2d act s
  | .cmd b => opCmd b s
  | .hostSend c => opHostSend c s
  | .hostConnect => opHostConnect s
  | .hostTimeout => opHostTimeout s
  | .hostDisconnect => opHostDisconnect s
  | .hostXfault => opHostXfault s
  | .hostRx b => opHostRx b s
  | .hsReadRecent l => opReadRecent l s
  | .dspDone => opDspDone s
  | .setGrain g => .next { s with grain := g }

/-- An operation is taken when it is enabled; otherwise it has no step and is no no-op (00_scope.md R12; log 11). -/
def perform (e : Event) (s : State) : Host.Outcome State Fault Refusal :=
  if enabled e s then take e s else .fault .notEnabled

end Sys2Proof.Machine
end

