-- ==== Sys2Proof/Machine/Fetch.lean ====
section
/-! DEFINITION. Placing one encoded operation where the next step takes it (log 15). -/

namespace Sys2Proof.Machine

/-- The byte `b` in front of `link_h2d`, its delivery as the next line of the program, and no operation in progress
on the device. -/
def placeCommand (b : Byte) (s : State) : State :=
  { s with
    linkH2d := b :: s.linkH2d
    hsPos := none
    convLo := none
    trace := .linkH2d .deliver :: s.trace }

/-- The byte `b` in front of `link_d2h`, its delivery as the next line of the program, and a connected host whose
decoder is in the state `pending`. -/
def placeData (b : Byte) (pending : Bool) (s : State) : State :=
  { s with
    linkD2h := b :: s.linkD2h
    hConn := .connected
    decPending := pending
    trace := .linkD2h .deliver :: s.trace }

/-- The operation that `decodeTableWord` reads, placed where the next step runs it; the state as it is where the
decoder reads none. -/
def placeWord (s : State) (nbits w : Nat) : State :=
  match decodeTableWord nbits w with
  | none => s
  | some i =>
    if i.isCommand then placeCommand (BitVec.ofNat 8 w) s
    else placeData (BitVec.ofNat 8 w) (!i.readIn (.data false)) s

end Sys2Proof.Machine
end

