-- ==== Sys2Proof/Machine/Trace.lean ====
section
/-! DEFINITION. The pseudo-operations of the trace notation and what each expands to (30_encoding.md R109). -/

namespace Sys2Proof.Machine

/-- `SAMPLE s`. -/
def traceSample (v : Sample) : List Event := [.tick, .convDone v]

/-- `FRAME s`, a byte list. -/
def traceFrame (v : Sample) : List Byte := [encHi v.toCell, encLo v.toCell]

/-- `XFER`: one byte from the TX ring to `HOST.RX`. -/
def traceXfer : List Event := [.txDrain, .linkD2h .deliver]

/-- `LOSE`. -/
def traceLose : List Event := [.txDrain, .linkD2h .drop]

/-- `COMMAND c`. -/
def traceCommand (c : HostCmd) : List Event := [.hostSend c, .linkH2d .deliver]

/-- `STREAM b0 b1 ...`. -/
def traceStream (bs : List Byte) : List Event := bs.map .hostRx

end Sys2Proof.Machine
end

