-- ==== Sys2Proof/Machine/Schedule.lean ====
section
/-! DEFINITION. Which operation is taken next (60_exceptions.md R262). A loaded program is taken line by line; with
none, the choice among the operations of the agents is free (log 1, log 2). -/

namespace Sys2Proof

/-- The environment's `n`-th free choice of the next operation (60_exceptions.md R262, 10_state.md R51). -/
opaque Config.schedule : Nat → Machine.Event

namespace Machine

/-- The operations a free choice may take. `CMD b` and `HOST.RX b` raised without a byte on the link would be
insertion, which the link of the spec cannot do (93_implementation_defined.md U9; log 10), and `TX.PUSH b` and
all others are some agent's. -/
def Event.ofAgent : Event → Bool
  | .cmd _ => false
  | .hostRx _ => false
  | .devReset _ | .hostReset | .tick | .convDone _ | .txPush _ | .txDrain | .linkD2h _ | .linkH2d _ => true
  | .hostSend _ | .hostConnect | .hostTimeout | .hostDisconnect | .hostXfault => true
  | .hsReadRecent _ | .dspDone | .setGrain _ => true

/-- One step: the next line of the program, or a free choice. A free choice that falls on no enabled operation of an
agent leaves the block as it is and is made again (log 2). -/
def takeNext (s : State) : Host.Outcome State Fault Refusal :=
  match s.trace with
  | e :: rest => perform e { s with trace := rest }
  | [] =>
    let e := Config.schedule s.draws
    let s' := { s with draws := s.draws + 1 }
    if e.ofAgent && enabled e s' then perform e s' else .next s'

end Machine

end Sys2Proof
end

