-- ==== Sys2Proof/Machine/Step.lean ====
section
/-! DEFINITION. One step of the machine, and where its next instruction is placed. -/

namespace Sys2Proof.Machine

/-- One step: the next operation of the trace, or of the environment's free choice (60_exceptions.md R262). -/
def step (s : State) : Host.Outcome State Fault Refusal := takeNext s

/-- `s` with the operation of the table word `w` stored where `step` takes its next operation (log 15). -/
def State.withFetchWord (s : State) (nbits w : Nat) : State := placeWord s nbits w

end Sys2Proof.Machine
end

