-- ==== Sys2Proof/Safety.lean ====
section
/-! DEFINITION. The terms claims use: the invariant of 10_state.md R47, what one half leaves of the other, the
condition named `FramingFault`, the output levels, and runs of the codec, of the rings and of the backpressure
controller. -/

namespace Sys2Proof.Machine

/-! ## The invariant -/

/-- The TX ring is as 10_state.md R47 items 1 to 4 say: both indices within the capacity, and the drain armed
exactly while bytes wait. -/
structure TxOk (s : State) : Prop where
  two_le : 2 ≤ s.cfg.txN
  head_lt : s.txHead < s.cfg.txN
  tail_lt : s.txTail < s.cfg.txN
  drain : s.txDrainEn = true ↔ s.txHead ≠ s.txTail

/-- The host ring is as 10_state.md R47 items 5, 6 and 9 say: the index and the count within the capacity, the head
at the count until the ring has filled once, and each valid cell written with a Sample. -/
structure HsOk (s : State) : Prop where
  pos : 1 ≤ s.cfg.hsN
  head_lt : s.hsHead < s.cfg.hsN
  count_le : s.hsCount ≤ s.cfg.hsN
  head_eq : s.hsCount < s.cfg.hsN → s.hsHead = s.hsCount
  valid : ∀ j < s.hsCount, ∃ x, memRead s.hsMem (ringSub s.cfg.hsN s.hsHead (j + 1)) = some x ∧ x.toNat ≤ 1023

/-- A pass in flight has a window of 1 to `W` Samples, each written (10_state.md R47 items 8 and 9, 43_backpressure.md
R193). Of `pass_L` and `win` while no pass is in flight nothing is asked. DESIGN CHOICE (log 28). -/
structure PassOk (s : State) : Prop where
  pos : 1 ≤ s.passL
  le : s.passL ≤ s.cfg.w
  valid : ∀ j < s.passL, ∃ x, memRead s.win j = some x ∧ x.toNat ≤ 1023

/-- The invariant of every reachable state (10_state.md R47), with the canonical form of the three arrays. Item 9 of R47 for
`win`, and the range `0 .. W` that R22 gives `pass_L`, are asked while `dsp_busy = 1` only: after `HOST.RESET` R48 leaves
`win` and `pass_L` unspecified, and the free values they then hold may lie outside these ranges. DESIGN CHOICE (log 28). -/
structure StateInv (s : State) : Prop where
  cfg : s.cfg.Wf
  txMem : Memory.wf s.txMem = true ∧ ∀ c ∈ s.txMem, c.1 < s.cfg.txN
  hsMem : Memory.wf s.hsMem = true ∧ ∀ c ∈ s.hsMem, c.1 < s.cfg.hsN
  win : Memory.wf s.win = true ∧ ∀ c ∈ s.win, c.1 < s.cfg.w
  tx : TxOk s
  /-- `fault_ind = tx_fault` in the mode `sticky` (10_state.md R26). -/
  ind : s.cfg.faultIndMode = .sticky → s.faultInd = s.txFault
  hs : HsOk s
  pass : s.dspBusy = true → PassOk s
  /-- The collector holds at most 8 bytes, fewer while it waits (10_state.md R40, 42_command_channel.md R173). -/
  rx : s.hsRx.length ≤ 8 ∧ (s.hConn = .handshaking → s.hsRx.length < 8)
  /-- The positions inside operations in progress (10_state.md R41). -/
  hsPos : ∀ k, s.hsPos = some k → 1 ≤ k ∧ k < 8
  convLo : ∀ b, s.convLo = some b → b.toNat < 128
  /-- A published result has half as many bins as its FFT size, none negative (10_state.md R42). -/
  res : s.resValid = true → s.resSpec.length = s.resM / 2 ∧ ∀ x ∈ s.resSpec, 0 ≤ x

/-! ## What a step leaves alone -/

/-- Nothing of the device half changed. -/
structure SameDevice (s t : State) : Prop where
  acq : t.acq = s.acq
  rate : t.rate = s.rate
  txRead : ∀ a, t.txRead a = s.txRead a
  txHead : t.txHead = s.txHead
  txTail : t.txTail = s.txTail
  txDrainEn : t.txDrainEn = s.txDrainEn
  txFault : t.txFault = s.txFault
  faultInd : t.faultInd = s.faultInd
  convPending : t.convPending = s.convPending
  hsPos : t.hsPos = s.hsPos
  convLo : t.convLo = s.convLo

/-- Nothing of the host half changed. -/
structure SameHost (s t : State) : Prop where
  decPending : t.decPending = s.decPending
  decHigh : t.decHigh = s.decHigh
  hsRead : ∀ a, t.hsRead a = s.hsRead a
  hsHead : t.hsHead = s.hsHead
  hsCount : t.hsCount = s.hsCount
  bpCount : t.bpCount = s.bpCount
  dspBusy : t.dspBusy = s.dspBusy
  winRead : ∀ a, t.winRead a = s.winRead a
  passL : t.passL = s.passL
  passFs : t.passFs = s.passFs
  resValid : t.resValid = s.resValid
  resSpec : t.resSpec = s.resSpec
  resM : t.resM = s.resM
  resFs : t.resFs = s.resFs
  resStats : t.resStats = s.resStats
  hActive : t.hActive = s.hActive
  hRate : t.hRate = s.hRate
  hConn : t.hConn = s.hConn
  hsRx : t.hsRx = s.hsRx

/-! ## What a step does not read -/

/-- `s` with the host half of `u`. -/
def State.withHostOf (s u : State) : State :=
  { s with
    decPending := u.decPending
    decHigh := u.decHigh
    hsMem := u.hsMem
    hsHead := u.hsHead
    hsCount := u.hsCount
    bpCount := u.bpCount
    dspBusy := u.dspBusy
    win := u.win
    passL := u.passL
    passFs := u.passFs
    resValid := u.resValid
    resSpec := u.resSpec
    resM := u.resM
    resFs := u.resFs
    resStats := u.resStats
    hActive := u.hActive
    hRate := u.hRate
    hConn := u.hConn
    hsRx := u.hsRx
    hostEpoch := u.hostEpoch }

/-- `s` with the device half of `u`. -/
def State.withDeviceOf (s u : State) : State :=
  { s with
    acq := u.acq
    rate := u.rate
    txMem := u.txMem
    txHead := u.txHead
    txTail := u.txTail
    txDrainEn := u.txDrainEn
    txFault := u.txFault
    faultInd := u.faultInd
    convPending := u.convPending
    hsPos := u.hsPos
    convLo := u.convLo
    devEpoch := u.devEpoch }

/-- The outcome with `f` applied to its next state. -/
def mapNext (f : State → State) : Host.Outcome State Fault Refusal → Host.Outcome State Fault Refusal
  | .next t => .next (f t)
  | .fault r => .fault r
  | .refused r => .refused r

/-! ## Whose operation it is -/

/-- The operations of the device half and of the link towards it (60_exceptions.md R256, R266). -/
def Event.ofDevice : Event → Bool
  | .devReset _ | .tick | .convDone _ | .txPush _ | .txDrain | .linkH2d _ | .cmd _ => true
  | .hostReset | .linkD2h _ | .hostSend _ | .hostConnect | .hostTimeout | .hostDisconnect | .hostXfault => false
  | .hostRx _ | .hsReadRecent _ | .dspDone | .setGrain _ => false

/-- The operations of the host half and of the link towards it (60_exceptions.md R261, R266). -/
def Event.ofHost : Event → Bool
  | .hostReset | .linkD2h _ | .hostSend _ | .hostConnect | .hostTimeout | .hostDisconnect | .hostXfault => true
  | .hostRx _ | .hsReadRecent _ | .dspDone => true
  | .devReset _ | .tick | .convDone _ | .txPush _ | .txDrain | .linkH2d _ | .cmd _ | .setGrain _ => false

/-! ## Names and levels -/

/-- The condition `FramingFault`: a high byte replaces a pending one, or a low byte finds none pending. It is a name
without state (60_exceptions.md R250, R253; log 21). -/
def framingFault (i : Instr) (s : State) : Bool :=
  match i with
  | .decHi _ _ => s.decPending
  | .decDrop _ => !s.decPending
  | .decLo _ => false
  | .cmdStart | .cmdStop | .cmdRate1 | .cmdRate10 | .cmdRate20 | .cmdHandshake | .cmdIgnore _ => false

/-- The levels on the output ports (10_state.md R50, R52). `h_active` is not among them: 10_state.md R37 says it is shown to
the consumer, while R50 gives it no port and R52 does not list it. DESIGN CHOICE (log 27). -/
structure OutputLevels where
  acqRun : Acq
  rateSel : Rate
  faultInd : Bool
  connStatus : Conn
  resValid : Bool
  resSpec : List ℚ
  resM : Nat
  resFs : Rate
  resStats : Stats ℚ
  deriving DecidableEq, Repr

/-- What an observer sees as levels (10_state.md R50, R52), `hActive` left out. DESIGN CHOICE (log 27). -/
def State.levels (s : State) : OutputLevels where
  acqRun := s.acq
  rateSel := s.rate
  faultInd := s.faultInd
  connStatus := s.hConn
  resValid := s.resValid
  resSpec := s.resSpec
  resM := s.resM
  resFs := s.resFs
  resStats := s.resStats

/-! ## Runs -/

/-- Operations one after another, stopping at the first that stops. -/
def performAll : List Event → State → Host.Outcome State Fault Refusal
  | [], s => .next s
  | e :: es, s =>
    match perform e s with
    | .next t => performAll es t
    | .fault r => .fault r
    | .refused r => .refused r

/-- The Sample `HS.WRITE` stored when the byte `b` took the host from `s` to `t`: one exactly when the byte was a
`DEC.LO` (40_frame_codec.md R124). -/
def deliveredBy (s t : State) (b : Byte) : List Cell16 :=
  match decode (.data s.decPending) [b] with
  | .ok (.decLo _, _) => [t.hsRead s.hsWriteCell]
  | _ => []

/-- Bytes received one after another, with the Samples delivered, in order. -/
def feed : List Byte → State → Option (State × List Cell16)
  | [], s => some (s, [])
  | b :: bs, s =>
    match perform (.hostRx b) s with
    | .next t => (feed bs t).map fun r => (r.1, deliveredBy s t b ++ r.2)
    | .fault _ => none
    | .refused _ => none

/-- A valid stream: the Frames of the Samples, concatenated (40_frame_codec.md R127). -/
def stream (vs : List Sample) : List Byte := vs.flatMap traceFrame

/-- A `TX.PUSH` of a byte, or a `TX.DRAIN`, which is taken only while it is enabled (41_ring_buffers.md R145). -/
def txOp : Option Byte → State → State
  | some b, s => txPush b s
  | none, s => if s.txDrainEn then txDrain s else s

/-- A sequence of `TX.PUSH` and `TX.DRAIN`. -/
def txRun : List (Option Byte) → State → State
  | [], s => s
  | o :: os, s => txRun os (txOp o s)

/-- The pushes of a sequence that the ring accepts, in order. -/
def txAccepted : List (Option Byte) → State → List Byte
  | [], _ => []
  | o :: os, s => (if txFull s then [] else o.toList) ++ txAccepted os (txOp o s)

/-- The pushes of a sequence that the ring rejects, in order. -/
def txRejected : List (Option Byte) → State → List Byte
  | [], _ => []
  | o :: os, s => (if txFull s then o.toList else []) ++ txRejected os (txOp o s)

/-- The bytes waiting in the TX ring, oldest first. -/
def liveBytes (s : State) : List Byte :=
  (List.range (txLive s)).map fun j => s.txRead ((s.txTail + j) % s.cfg.txN)

/-- Samples written one after another (41_ring_buffers.md R148). -/
def hsRun : List Cell16 → State → State
  | [], s => s
  | v :: vs, s => hsRun vs (hsWrite v s)

/-- A Sample counted (`true`), or a `DSP.DONE`, which is taken only while it is enabled (43_backpressure.md R197). -/
def bpOp (sample : Bool) (s : State) : State :=
  if sample then bpCount s
  else
    match perform .dspDone s with
    | .next t => t
    | .fault _ => s
    | .refused _ => s

/-- The threshold hits of a sequence. -/
def bpHits : List Bool → State → Nat
  | [], _ => 0
  | o :: os, s => (if o && thresholdHit s then 1 else 0) + bpHits os (bpOp o s)

/-- A pass started between `s` and `t`: it is in flight in `t`, and either none was in flight in `s` or the captured window
was written, in `win`, `pass_L` or `pass_fs` (43_backpressure.md R193). A request accepted while a pass is in flight
would show in the second way. -/
def passStarts (s t : State) : Bool :=
  t.dspBusy && (!s.dspBusy || decide ((t.win, t.passL, t.passFs) ≠ (s.win, s.passL, s.passFs)))

/-- The passes a sequence starts. -/
def bpStarted : List Bool → State → Nat
  | [], _ => 0
  | o :: os, s => (if passStarts s (bpOp o s) then 1 else 0) + bpStarted os (bpOp o s)

/-- The passes a sequence completes: each `DSP.DONE` that is taken (43_backpressure.md R196). -/
def bpCompleted : List Bool → State → Nat
  | [], _ => 0
  | o :: os, s => (if !o && enabled .dspDone s then 1 else 0) + bpCompleted os (bpOp o s)

/-- The state after a sequence. -/
def bpRun : List Bool → State → State
  | [], s => s
  | o :: os, s => bpRun os (bpOp o s)

end Sys2Proof.Machine
end

