-- ==== Sys2Proof/Certificates/Slice0/Obligations.lean ====
section
/-! DEFINITION. The statements about the block, each a rule of spec/ or a consequence of some. -/

open Sys2Proof Sys2Proof.Machine Sys2Proof.Dsp

/-! ## Encoding -/

/-- Decode and encode agree, for every operation with every operand, in every format it is read in
(30_encoding.md R98, R99, R103). -/
def Obligations.DecodeOfEncode : Prop :=
  ∀ (i : Instr) (f : Format) (rest : List Byte), i.wellFormed = true → i.readIn f = true →
    decode f (encode i ++ rest) = .ok (i, rest)

/-- Every byte, in every format, is exactly one operation: none is illegal, and its encoding is the byte
(30_encoding.md R99, R100). -/
def Obligations.EveryByteDecodesAndEncodesBack : Prop :=
  ∀ (f : Format) (b : Byte) (rest : List Byte), ∃ i : Instr,
    decode f (b :: rest) = .ok (i, rest) ∧ i.wellFormed = true ∧ i.readIn f = true ∧ encode i = [b]

/-- Words written out from 30_encoding.md R92 and R98 decode to the operations they stand for. -/
def Obligations.SpecWordsDecode : Prop :=
  decode .cmd [0b00000001#8] = .ok (.cmdStart, []) ∧ decode .cmd [0b00010001#8] = .ok (.cmdRate10, []) ∧
  decode .cmd [0b00111111#8] = .ok (.cmdHandshake, []) ∧
  decode (.data true) [0b10000101#8] = .ok (.decHi 0b0000#4 0b101#3, []) ∧
  decode (.data true) [0b00101010#8] = .ok (.decLo 0b0101010#7, []) ∧
  decode (.data false) [0b00101010#8] = .ok (.decDrop 0b0101010#7, [])

/-- `ENC` (40_frame_codec.md R122): the two bytes of a Frame as numbers, bits 15:10 of the argument ignored, and the
ranges they lie in. -/
def Obligations.EncoderFormula : Prop :=
  ∀ v : Cell16,
    ((enc v).1.toNat = 0x80 ||| ((v.toNat >>> 7) &&& 0x07)) ∧ ((enc v).2.toNat = v.toNat &&& 0x7F) ∧
    (0x80 ≤ (enc v).1.toNat ∧ (enc v).1.toNat ≤ 0x87) ∧ (enc v).2.toNat ≤ 0x7F

/-- Round trip (40_frame_codec.md R126): `DEC.HI` of the high byte, then `DEC.LO` of the low byte, from either decoder
state, delivers the Sample that was encoded. -/
def Obligations.FrameRoundTrip : Prop :=
  ∀ (v : Sample) (s : State), ∃ t u : State,
    exec (decodeData s.decPending (enc v.toCell).1) s = .next t ∧ t.decPending = true ∧
    exec (decodeData t.decPending (enc v.toCell).2) t = .next u ∧ u.decPending = false ∧
    u.hsRead s.hsWriteCell = v.toCell ∧ u.hsHead = (s.hsHead + 1) % s.cfg.hsN

/-! ## The command channel -/

/-- `CMD.START` and `CMD.STOP` (42_command_channel.md R161, R162): bytes 0x01 and 0x02 set `acq` to RUNNING and STOPPED
and change nothing else: no ring is flushed, a pending conversion stays pending, `rate` is kept. -/
def Obligations.CmdStartAndStopSetAcquisition : Prop :=
  ∀ s : State,
    (exec .cmdStart s = .next { s with acq := .running } ∧
      (cmdReady s = true → perform (.cmd 0x01#8) s = .next { s with acq := .running })) ∧
    (exec .cmdStop s = .next { s with acq := .stopped } ∧
      (cmdReady s = true → perform (.cmd 0x02#8) s = .next { s with acq := .stopped }))

/-- `CMD.RATE1`, `CMD.RATE10`, `CMD.RATE20` (42_command_channel.md R163, R164, R165): bytes 0x10, 0x11, 0x12 set `rate`
and change nothing else, in either acquisition state. -/
def Obligations.CmdRatesSelect : Prop :=
  ∀ s : State,
    (exec .cmdRate1 s = .next { s with rate := .r1 } ∧
      (cmdReady s = true → perform (.cmd 0x10#8) s = .next { s with rate := .r1 })) ∧
    (exec .cmdRate10 s = .next { s with rate := .r10 } ∧
      (cmdReady s = true → perform (.cmd 0x11#8) s = .next { s with rate := .r10 })) ∧
    (exec .cmdRate20 s = .next { s with rate := .r20 } ∧
      (cmdReady s = true → perform (.cmd 0x12#8) s = .next { s with rate := .r20 }))

/-- `CMD.IGNORE` (42_command_channel.md R167): each of the other 250 bytes changes nothing. -/
def Obligations.CmdIgnoreChangesNothing : Prop :=
  ∀ (b : Byte) (s : State), exec (.cmdIgnore b) s = .next s ∧
    (b ∉ [0x01#8, 0x02#8, 0x10#8, 0x11#8, 0x12#8, 0x3F#8] → cmdReady s = true → perform (.cmd b) s = .next s)

/-- `CMD.HANDSHAKE` taken whole (42_command_channel.md R166): the first `n` of the eight bytes 4F 53 43 5F 56 31 0A 6D are
stored in order, `n` being 8 or the number of free cells if that is less; each further byte is dropped with a
`TxOverflow`; every other cell and field is unchanged. -/
def Obligations.CmdHandshakePushesResponse : Prop :=
  ∀ s : State, TxOk s → s.grain = .whole →
    let n := min 8 (s.cfg.txN - 1 - txLive s)
    ∃ t : State, exec .cmdHandshake s = .next t ∧
      (∀ k < n, some (t.txRead ((s.txHead + k) % s.cfg.txN)) =
        [0x4F#8, 0x53#8, 0x43#8, 0x5F#8, 0x56#8, 0x31#8, 0x0A#8, 0x6D#8][k]?) ∧
      (∀ a, (∀ k < n, a ≠ (s.txHead + k) % s.cfg.txN) → t.txRead a = s.txRead a) ∧
      t = { s with
        txMem := t.txMem
        txHead := (s.txHead + n) % s.cfg.txN
        txDrainEn := s.txDrainEn || decide (0 < n)
        txFault := s.txFault || decide (n < 8)
        faultInd := match s.cfg.faultIndMode with
          | .sticky => s.faultInd || decide (n < 8)
          | .toggle => s.faultInd ^^ decide ((8 - n) % 2 = 1)
        raised := List.replicate (8 - n) .txOverflow ++ s.raised }

/-- `CMD.HANDSHAKE` in sub-steps (42_command_channel.md R166, 10_state.md R41): the operation makes the first push and
keeps the position, each written-out `TX.PUSH` of the next byte makes one more, and the position is gone after the
eighth. -/
def Obligations.CmdHandshakeSubSteps : Prop :=
  ∀ s : State,
    (s.grain = .subSteps → exec .cmdHandshake s = .next { txPush 0x4F#8 s with hsPos := some 1 }) ∧
    (∀ (k : Nat) (b : Byte), s.hsPos = some k → s.convLo = none →
      [0x4F#8, 0x53#8, 0x43#8, 0x5F#8, 0x56#8, 0x31#8, 0x0A#8, 0x6D#8][k]? = some b →
      perform (.txPush b) s = .next { txPush b s with hsPos := if k < 7 then some (k + 1) else none })

/-- The eight sub-steps with nothing taken between them are the whole operation (40_frame_codec.md R121,
42_command_channel.md R166). -/
def Obligations.HandshakeSubStepsMakeTheWhole : Prop :=
  ∀ s : State, s.hsPos = none → s.convLo = none →
    ∃ t w : State, exec .cmdHandshake { s with grain := .subSteps } = .next t ∧
      exec .cmdHandshake { s with grain := .whole } = .next w ∧
      performAll (([0x53#8, 0x43#8, 0x5F#8, 0x56#8, 0x31#8, 0x0A#8, 0x6D#8] : List Byte).map .txPush) t =
        .next { w with grain := .subSteps }

/-- What no command does (42_command_channel.md R168, R160): every command operation completes; it empties no ring, keeps
a set `tx_fault` and a pending conversion, leaves the host half and the link alone, and moves no axis but its own: `acq`
is written by start and stop only, `rate` by the rate commands only. -/
def Obligations.CommandsTouchOnlyTheirAxes : Prop :=
  ∀ (i : Instr) (s : State), i.isCommand = true → ∃ t : State, exec i s = .next t ∧
    SameHost s t ∧ t.linkD2h = s.linkD2h ∧ t.linkH2d = s.linkH2d ∧ t.txTail = s.txTail ∧
    t.convPending = s.convPending ∧ (s.txFault = true → t.txFault = true) ∧
    (TxOk s → s.txHead ≠ s.txTail → t.txHead ≠ t.txTail) ∧
    (i ≠ .cmdStart → i ≠ .cmdStop → t.acq = s.acq) ∧
    (i ≠ .cmdRate1 → i ≠ .cmdRate10 → i ≠ .cmdRate20 → t.rate = s.rate)

/-! ## Sampling and the TX ring -/

/-- `TICK` (40_frame_codec.md R120, R121): enabled while RUNNING and no `CONV.DONE` is between its pushes, it marks a
conversion as pending (a second tick is absorbed) and emits `conv_start`; while STOPPED it has no step (in the model the
stop `notEnabled`, log 11). -/
def Obligations.TickStartsConversion : Prop :=
  ∀ s : State,
    (s.acq = .running → s.convLo = none →
      perform .tick s = .next { s with convPending := true, emitted := .convStart :: s.emitted }) ∧
    (s.acq = .stopped → perform .tick s = .fault .notEnabled)

/-- `TX.PUSH b` (41_ring_buffers.md R141): on a full ring the byte is dropped and the overflow shown, every cell and
index unchanged; otherwise the byte is stored at `tx_head`, every other cell unchanged, and the drain armed. -/
def Obligations.PushStoresOrDrops : Prop :=
  ∀ (b : Byte) (s : State),
    ((s.txHead + 1) % s.cfg.txN = s.txTail →
      txPush b s = { s with
        txFault := true
        faultInd := match s.cfg.faultIndMode with
          | .sticky => true
          | .toggle => !s.faultInd
        raised := .txOverflow :: s.raised }) ∧
    ((s.txHead + 1) % s.cfg.txN ≠ s.txTail →
      (txPush b s).txRead s.txPushCell = b ∧
      (∀ a, a ≠ s.txPushCell → (txPush b s).txRead a = s.txRead a) ∧
      txPush b s = { s with
        txMem := (txPush b s).txMem
        txHead := (s.txHead + 1) % s.cfg.txN
        txDrainEn := true })

/-- `TX.DRAIN` (41_ring_buffers.md R144): it has no step while the drain is not armed (00_scope.md R12; that this is the
stop `notEnabled` is the model's choice, log 11); on an empty ring it disarms itself; otherwise the byte at `tx_tail` is
emitted and appended to `link_d2h`, and the drain is disarmed when the ring becomes empty. -/
def Obligations.DrainSendsOldestByte : Prop :=
  ∀ s : State,
    (s.txDrainEn = false → perform .txDrain s = .fault .notEnabled) ∧
    (s.txDrainEn = true → s.txHead = s.txTail → perform .txDrain s = .next { s with txDrainEn := false }) ∧
    (s.txDrainEn = true → s.txHead ≠ s.txTail →
      perform .txDrain s = .next { s with
        txTail := (s.txTail + 1) % s.cfg.txN
        linkD2h := s.linkD2h ++ [s.txRead s.txDrainCell]
        emitted := .txByte (s.txRead s.txDrainCell) :: s.emitted
        txDrainEn := decide (s.txHead ≠ (s.txTail + 1) % s.cfg.txN) })

/-- The TX ring is a queue (41_ring_buffers.md R145): over any sequence of pushes and drains, at most `TX_N − 1` bytes are
live; the bytes sent are, in order, the bytes that were waiting and then the accepted pushes, the rest still waiting;
`tx_fault` is set after it exactly if it was before or a push was rejected. -/
def Obligations.TxRingIsAQueue : Prop :=
  ∀ (ops : List (Option Byte)) (s : State), TxOk s →
    TxOk (txRun ops s) ∧ txLive (txRun ops s) ≤ s.cfg.txN - 1 ∧
    (∃ sent : List Byte, (txRun ops s).linkD2h = s.linkD2h ++ sent ∧
      (txRun ops s).emitted = (sent.reverse.map .txByte) ++ s.emitted ∧
      liveBytes s ++ txAccepted ops s = sent ++ liveBytes (txRun ops s)) ∧
    ((txRun ops s).txFault = true ↔ s.txFault = true ∨ txRejected ops s ≠ [])

/-- The TX ring is full exactly when `TX_N − 1` bytes are live, empty exactly when none is, and never holds more
(41_ring_buffers.md R142, 10_state.md R47 items 2 and 3). -/
def Obligations.FullMeansAllButOneLive : Prop :=
  ∀ s : State, TxOk s →
    (txFull s = true ↔ txLive s = s.cfg.txN - 1) ∧ (txEmpty s = true ↔ txLive s = 0) ∧ txLive s ≤ s.cfg.txN - 1

/-- `CONV.DONE s` taken whole (40_frame_codec.md R121): the pending conversion ends and the two bytes of the Frame are
pushed, high byte first; it has no step while no conversion is pending (in the model the stop `notEnabled`, log 11);
`acq` is not read. -/
def Obligations.ConvDonePushesFrame : Prop :=
  ∀ (v : Sample) (s : State),
    (s.convPending = true → s.convLo = none → s.grain = .whole →
      perform (.convDone v) s =
        .next (txPush (enc v.toCell).2 (txPush (enc v.toCell).1 { s with convPending := false }))) ∧
    (s.convPending = false → perform (.convDone v) s = .fault .notEnabled)

/-- `CONV.DONE s` in sub-steps (40_frame_codec.md R121, 10_state.md R41): the first push is made and the low byte kept;
the written-out `TX.PUSH` of it ends the operation; and with nothing between, the two sub-steps are the whole. -/
def Obligations.ConvDoneSubSteps : Prop :=
  ∀ (v : Sample) (s : State), s.convPending = true → s.convLo = none →
    ∃ t u : State, perform (.convDone v) { s with grain := .subSteps } = .next t ∧
      t = { txPush (enc v.toCell).1 { s with grain := .subSteps, convPending := false } with
        convLo := some (enc v.toCell).2 } ∧
      perform (.txPush (enc v.toCell).2) t = .next { u with grain := .subSteps } ∧
      perform (.convDone v) { s with grain := .whole } = .next u

/-- What may stand between sub-steps (40_frame_codec.md R121, 42_command_channel.md R166; the reading of R121 is the
model's, log 9): between the two pushes of a `CONV.DONE`, of the operations of the device half and of the link towards
it, only the push itself, `TX.DRAIN`, the loss of a command byte and `DEV.RESET`; between the pushes of a
`CMD.HANDSHAKE` no other command byte, whether raised by itself, delivered or garbled by the link, but ticks,
conversions and drains as ever. -/
def Obligations.InterleavingBetweenSubSteps : Prop :=
  ∀ s : State,
    (∀ lo, s.convLo = some lo →
      (∀ e : Event, e.ofDevice = true → enabled e s = true →
        e = .txDrain ∨ e = .txPush lo ∨ e = .linkH2d .drop ∨ ∃ c, e = .devReset c) ∧
      enabled (.txPush lo) s = true ∧ enabled .txDrain s = s.txDrainEn) ∧
    (∀ k, s.hsPos = some k → s.convLo = none →
      (∀ b, enabled (.cmd b) s = false) ∧ enabled (.linkH2d .deliver) s = false ∧
      (∀ b, enabled (.linkH2d (.garble b)) s = false) ∧
      (enabled .tick s = true ↔ s.acq = .running) ∧ (∀ v, enabled (.convDone v) s = s.convPending) ∧
      enabled .txDrain s = s.txDrainEn)

/-! ## The resync decoder -/

/-- `DEC.HI` (40_frame_codec.md R123): `dec_high` takes bits 2:0, bits 6:3 are ignored, the decoder is pending, and
nothing else changes, in either decoder state. -/
def Obligations.DecHiLatches : Prop :=
  ∀ (pad : BitVec 4) (h : BitVec 3) (s : State),
    exec (.decHi pad h) s = .next { s with decHigh := h, decPending := true }

/-- `DEC.LO` while a high byte is pending (40_frame_codec.md R124, 41_ring_buffers.md R146, 43_backpressure.md R191,
R193, R194): the Sample `(dec_high << 7) | l` is stored at `hs_head`, every other cell unchanged; the counter advances;
below the threshold nothing more; at it the counter is cleared, and a pass is started over the most recent `min(W,
hs_count)` Samples unless one is in flight. -/
def Obligations.DecLoDelivers : Prop :=
  ∀ (l : BitVec 7) (s : State), s.decPending = true →
    let hit := s.bpCount + 1 ≥ s.cfg.thresh s.hRate
    ∃ t : State, exec (.decLo l) s = .next t ∧
      (t.hsRead s.hsWriteCell).toNat = (s.decHigh.toNat <<< 7) ||| l.toNat ∧
      (∀ a, a ≠ s.hsWriteCell → t.hsRead a = s.hsRead a) ∧
      t = { s with
        decPending := false
        hsMem := t.hsMem
        hsHead := (s.hsHead + 1) % s.cfg.hsN
        hsCount := min (s.hsCount + 1) s.cfg.hsN
        bpCount := if hit then 0 else s.bpCount + 1
        dspBusy := t.dspBusy
        win := t.win
        passL := t.passL
        passFs := t.passFs } ∧
      (hit ∧ s.dspBusy = false →
        t.dspBusy = true ∧ t.passL = min s.cfg.w t.hsCount ∧ t.passFs = s.hRate ∧
        (∀ j < t.passL, t.winRead j = t.hsRead (t.recentCell t.passL j)) ∧
        (∀ a, t.passL ≤ a → t.winRead a = s.winRead a)) ∧
      (¬hit ∨ s.dspBusy = true →
        t.dspBusy = s.dspBusy ∧ t.passL = s.passL ∧ t.passFs = s.passFs ∧ ∀ a, t.winRead a = s.winRead a)

/-- `DEC.DROP` while nothing is pending (40_frame_codec.md R125): no state changes. -/
def Obligations.DecDropDiscards : Prop :=
  ∀ (l : BitVec 7) (s : State), s.decPending = false → exec (.decDrop l) s = .next s

/-- `DEC.LO` and `DEC.DROP` have no step in the decoder state they are not enabled in (40_frame_codec.md R124, R125;
00_scope.md R12). That having no step is the stop `notEnabled` is the model's choice (log 11). -/
def Obligations.LowByteNeedsItsDecoderState : Prop :=
  ∀ (l : BitVec 7) (s : State),
    (s.decPending = false → exec (.decLo l) s = .fault .notEnabled) ∧
    (s.decPending = true → exec (.decDrop l) s = .fault .notEnabled)

/-- Resynchronisation (40_frame_codec.md R127): a valid stream fed whole delivers its Samples from either decoder state
and, unless it is empty, ends idle; with a prefix removed, from the idle state, the Samples of the Frames that lie
wholly in the remainder; with any one byte removed, from the idle state, all Samples but the one whose Frame lost the
byte. -/
def Obligations.Resynchronisation : Prop :=
  ∀ (vs : List Sample) (s : State), s.hConn = .connected →
    (∃ t, feed (stream vs) s = some (t, vs.map Sample.toCell) ∧ (vs ≠ [] → t.decPending = false)) ∧
    (s.decPending = false → ∀ n,
      ∃ t, feed ((stream vs).drop n) s = some (t, (vs.drop ((n + 1) / 2)).map Sample.toCell)) ∧
    (s.decPending = false → ∀ p < 2 * vs.length,
      ∃ t, feed ((stream vs).eraseIdx p) s = some (t, (vs.eraseIdx (p / 2)).map Sample.toCell))

/-! ## The host ring and the backpressure controller -/

/-- The host ring (41_ring_buffers.md R148): after the writes `vs` from the empty ring, `hs_count` is `min(k, HS_N)`,
`hs_head` is `k mod HS_N`, and `HS.READ_RECENT L` returns the last `L` of them for every `L` up to `hs_count`. -/
def Obligations.HostRingKeepsMostRecent : Prop :=
  ∀ (vs : List Cell16) (s : State), 1 ≤ s.cfg.hsN → s.hsHead = 0 → s.hsCount = 0 →
    (hsRun vs s).hsCount = min vs.length s.cfg.hsN ∧ (hsRun vs s).hsHead = vs.length % s.cfg.hsN ∧
    ∀ l ≤ min vs.length s.cfg.hsN, readRecent (hsRun vs s) l = vs.drop (vs.length - l)

/-- `HS.READ_RECENT L` (41_ring_buffers.md R147): enabled for `L` up to `hs_count`, it changes no state and returns `L`
Samples, `out[j]` from cell `(hs_head − L + j) mod HS_N`; above the count it has no step (in the model the stop
`notEnabled`, log 11). -/
def Obligations.ReadRecentIsBounded : Prop :=
  ∀ (l : Nat) (s : State), HsOk s →
    (l ≤ s.hsCount → perform (.hsReadRecent l) s = .next s ∧ (readRecent s l).length = l ∧
      ∀ j < l, (readRecent s l)[j]? = some (s.hsRead ((s.hsHead + (s.cfg.hsN - l) + j) % s.cfg.hsN))) ∧
    (s.hsCount < l → perform (.hsReadRecent l) s = .fault .notEnabled)

/-- The backpressure law (43_backpressure.md R193, R194, R196, R197). A counted Sample starts a pass, which is seen by
the gate or by a captured window that was written, exactly when it hits the threshold and no pass is in flight. A
request at a hit with a pass in flight is dropped: only the counter is cleared, and `win`, `pass_L` and `pass_fs` are
left alone. Over any sequence of counted Samples and `DSP.DONE` the passes started are at most the threshold hits, and
each of them but the one in flight was ended by a `DSP.DONE` of its own. -/
def Obligations.PassesNeverOutrunHits : Prop :=
  (∀ s : State,
    (passStarts s (bpCount s) = true ↔ s.bpCount + 1 ≥ s.cfg.thresh s.hRate ∧ s.dspBusy = false) ∧
    (s.bpCount + 1 ≥ s.cfg.thresh s.hRate → s.dspBusy = true → bpCount s = { s with bpCount := 0 })) ∧
  ∀ (ops : List Bool) (s : State),
    bpStarted ops s ≤ bpHits ops s ∧
    bpStarted ops s + s.dspBusy.toNat = bpCompleted ops s + (bpRun ops s).dspBusy.toNat

/-- After `BP.COUNT` the counter is below the threshold of the current rate, whatever it was before (10_state.md R47
item 7, 43_backpressure.md R191). -/
def Obligations.CountStaysBelowThreshold : Prop :=
  ∀ s : State, 1 ≤ s.cfg.thresh s.hRate → (bpCount s).bpCount < s.cfg.thresh s.hRate

/-! ## The DSP pipeline -/

/-- `DSP.DONE` (43_backpressure.md R196): the pass over the captured window is published in one step, with the rate of
the capture; nothing else changes. The published values are those of the block's arithmetic `NUM` (44_dsp_pipeline.md
R221), an opaque realisation in the model (log 7). It has no step while no pass is in flight; that this is the stop
`notEnabled` is the model's choice (log 11). -/
def Obligations.DspDonePublishes : Prop :=
  ∀ s : State,
    (s.dspBusy = true →
      perform .dspDone s = .next { s with
        resSpec := (Config.num.pass s.cfg s.rawWindow s.passFs).spec
        resM := (Config.num.pass s.cfg s.rawWindow s.passFs).m
        resStats := (Config.num.pass s.cfg s.rawWindow s.passFs).stats
        resFs := s.passFs
        resValid := true
        dspBusy := false }) ∧
    (s.dspBusy = false → perform .dspDone s = .fault .notEnabled)

/-- What `DSP.DONE` publishes is within the stated error of the ideal pass over the captured window, and it is the
composition of the seven stages of `NUM`, each within the stated error of the ideal stage on what the pass gives it
(00_scope.md R6, 44_dsp_pipeline.md R221); and `NUM` meets the tolerances of the source's examples (log 29). This is at
the block's real parameters, of which the constraints of R6 are all that is known (logs 7, 18, 26). -/
def Obligations.PublishedResultIsWithinEps : Prop :=
  MeetsExamples Config.reals Config.num.toNumStages ∧
  ∀ s : State, StateInv s → s.dspBusy = true →
    ∃ t : State, perform .dspDone s = .next t ∧ 0 < Config.num.eps s.cfg ∧
      Conforms Config.reals s.cfg s.rawWindow s.passFs (Config.num.eps s.cfg)
        { spec := t.resSpec, m := t.resM, stats := t.resStats } ∧
      { spec := t.resSpec, m := t.resM, stats := t.resStats } =
        Config.num.fromVolts s.cfg (Config.num.stage1 s.cfg s.rawWindow) s.passFs ∧
      StagesConform Config.reals s.cfg s.rawWindow s.passFs (Config.num.eps s.cfg) Config.num.toNumStages

/-- The butterfly datapath computes the transform (45_fft_butterfly.md R236, 44_dsp_pipeline.md R207). -/
def Obligations.ButterfliesComputeTheTransform : Prop :=
  ∀ (m : Nat) (xp : Nat → ℂ) (k : Nat), k < 2 ^ m → fft twiddle m xp k = dft (2 ^ m) xp k

/-- `BITREV` (45_fft_butterfly.md R231): on `m`-bit indices `rev_m` reverses the bits, is its own inverse, and the load
puts `xp[n]` into cell `rev_m(n)`. -/
def Obligations.BitReversalIsItsOwnInverse : Prop :=
  ∀ (m n : Nat) (xp : Nat → ℂ), n < 2 ^ m →
    bitRev m n < 2 ^ m ∧ bitRev m (bitRev m n) = n ∧
    (∀ j < m, (bitRev m n).testBit j = n.testBit (m - 1 - j)) ∧ bitRevLoad m xp (bitRev m n) = xp n

/-- The butterflies of one stage touch disjoint pairs (45_fft_butterfly.md R234): in the order of the loops they make the
same array as all at once. -/
def Obligations.StageInLoopOrder : Prop :=
  ∀ (tw : Nat → Nat → ℂ) (m s : Nat) (a : Nat → ℂ) (i : Nat), 1 ≤ s → s ≤ m → i < 2 ^ m →
    stageLoop tw m s a i = stage tw s a i

/-- Twiddle factors (45_fft_butterfly.md R233): that of butterfly `j` in a stage of span `2^s` is `rom_tw[j · M / 2^s]`,
an index below `M/2`, where the table ends; its modulus is 1, it is exactly 1 for `j = 0`, and exactly `−i` for
`j = span/4` (R240). -/
def Obligations.TwiddlesComeFromTheTable : Prop :=
  ∀ m s j : Nat, s ≤ m → j < 2 ^ (s - 1) →
    twiddle j (2 ^ s) = romTw (2 ^ m) (j * 2 ^ m / 2 ^ s) ∧ (1 ≤ s → j * 2 ^ m / 2 ^ s < 2 ^ m / 2) ∧
    ‖twiddle j (2 ^ s)‖ = 1 ∧
    twiddle 0 (2 ^ s) = 1 ∧ (2 ≤ s → twiddle (2 ^ s / 4) (2 ^ s) = -Complex.I)

/-- The Hamming window (44_dsp_pipeline.md R204): its formula, 1 for length 1, symmetry, end values 0.08, middle value 1
for odd lengths, and range. -/
def Obligations.HammingWindowShape : Prop :=
  hamming 1 0 = 1 ∧
  ∀ l : Nat, 2 ≤ l →
    (∀ n < l, hamming l n = 0.54 - 0.46 * Real.cos (2 * Real.pi * n / ((l : ℝ) - 1)) ∧
      hamming l n = hamming l (l - 1 - n) ∧ 0.08 ≤ hamming l n ∧ hamming l n ≤ 1) ∧
    hamming l 0 = 0.08 ∧ hamming l (l - 1) = 0.08 ∧ (l % 2 = 1 → hamming l ((l - 1) / 2) = 1)

/-- The window sum (44_dsp_pipeline.md R205): the sum of the coefficients is 1 for length 1, 0.16 for length 2 (R218),
`0.54·L − 0.46` for `L >= 3`, and positive. The closed form R205 gives for `L >= 2` does not hold at `L = 2`, where the
spec's own corner case gives 0.16 (log 17). -/
def Obligations.WindowSumClosedForm : Prop :=
  windowSum (hamming 1) 1 = 1 ∧ windowSum (hamming 2) 2 = 0.16 ∧
  (∀ l : Nat, 3 ≤ l → windowSum (hamming l) l = 0.54 * l - 0.46) ∧ ∀ l : Nat, 1 ≤ l → 0 < windowSum (hamming l) l

/-- The FFT size (44_dsp_pipeline.md R206): the least power of two that is at least `L` and `FFT_MIN`, and the padding:
the signal, then zeros. -/
def Obligations.FftSizeIsLeastPowerOfTwo : Prop :=
  ∀ (l fftMin : Nat) (x : List ℝ), 2 ≤ fftMin →
    (∃ m, fftSize l fftMin = 2 ^ m) ∧ max l fftMin ≤ fftSize l fftMin ∧
    (∀ m, max l fftMin ≤ 2 ^ m → fftSize l fftMin ≤ 2 ^ m) ∧
    (∀ n, padded x n = if h : n < x.length then x[n] else 0)

/-- A constant window (44_dsp_pipeline.md R203, R211, R213 and their corner cases), for every value of the real
parameters: an all-zero spectrum, no peak-to-peak, no dominant bin, and `rms`, `min`, `max`, `dc` all the voltage
itself. -/
def Obligations.ConstantWindowHasNoSpectrum : Prop :=
  ∀ (a : RealParams) (p : Params) (x l : Nat) (fs : Rate), p.Wf → 1 ≤ l →
    let v : ℝ := (x : ℝ) * a.vref / a.adcRes
    let r := idealPass a p (List.replicate l x) fs
    (∀ y ∈ r.spec, y = 0) ∧ r.stats = { rms := v, min := v, max := v, p2p := 0, dc := v, domF := 0, domM := 0 }

/-- The dominant bin (44_dsp_pipeline.md R213): `(0, 0)` when no admitted bin is positive; otherwise the admitted bin of
greatest magnitude, the lowest of equals, and its frequency. -/
def Obligations.PeakSearchFindsLowestMaximum : Prop :=
  ∀ (fMin : ℝ) (fs m : Nat) (spec : List ℝ),
    let adm : Nat → Prop := fun k => k < spec.length ∧ fMin ≤ (k : ℝ) * fs / m
    (peakSearch fMin fs m spec = (0, 0) ∧ ∀ k, adm k → spec.getD k 0 ≤ 0) ∨
    ∃ k, adm k ∧ 0 < spec.getD k 0 ∧ peakSearch fMin fs m spec = ((k : ℝ) * fs / m, spec.getD k 0) ∧
      (∀ j, adm j → spec.getD j 0 ≤ spec.getD k 0) ∧ ∀ j < k, adm j → spec.getD j 0 < spec.getD k 0

/-- The formulas of a pass over a window that is not empty (44_dsp_pipeline.md R201 to R203, R207 to R214), for every
value of the real parameters: the spectrum bin by bin from the transform of the windowed signal, the time-domain
statistics from the voltages, and the dominant frequency and magnitude from the search over the pass's own spectrum. -/
def Obligations.IdealPassFormulas : Prop :=
  ∀ (a : RealParams) (p : Params) (r : List Nat) (fs : Rate), p.Wf → r ≠ [] →
    let l := r.length
    let v : Nat → ℝ := fun n => (r.getD n 0 : ℝ) * a.vref / a.adcRes
    let mu := (∑ n ∈ Finset.range l, v n) / l
    let m := fftSize l p.fftMin
    let x : Nat → ℂ := fun n => if n < l then (((v n - mu) * hamming l n : ℝ) : ℂ) else 0
    let s := ∑ n ∈ Finset.range l, hamming l n
    let res := idealPass a p r fs
    res.m = m ∧ res.spec.length = m / 2 ∧
    res.spec.getD 0 0 = |(dft m x 0).re| / s ∧
    (∀ k, 1 ≤ k → k < m / 2 → res.spec.getD k 0 = ‖dft m x k‖ * 2 / s) ∧
    res.stats.dc = mu ∧ res.stats.rms = Real.sqrt ((∑ n ∈ Finset.range l, v n ^ 2) / l) ∧
    (∀ n < l, res.stats.min ≤ v n ∧ v n ≤ res.stats.max) ∧
    (∃ n < l, v n = res.stats.min) ∧ (∃ n < l, v n = res.stats.max) ∧
    res.stats.p2p = res.stats.max - res.stats.min ∧
    (res.stats.domF, res.stats.domM) = peakSearch a.fMin fs.hz res.m res.spec

/-- Empty input: the empty spectrum, size 0 and all seven statistics 0, for the ideal pass (44_dsp_pipeline.md R219) and
for the block's arithmetic `NUM`. That `NUM`, to which R221 gives a tolerance only, is exact here is the model's choice
(log 7). -/
def Obligations.EmptyWindowGivesZeroResult : Prop :=
  ∀ (a : RealParams) (p : Params) (fs : Rate), p.Wf →
    idealPass a p [] fs = { spec := [], m := 0,
                            stats := { rms := 0, min := 0, max := 0, p2p := 0, dc := 0, domF := 0, domM := 0 } } ∧
    Config.num.pass p [] fs = { spec := [], m := 0,
                                stats := { rms := 0, min := 0, max := 0, p2p := 0, dc := 0, domF := 0, domM := 0 } }

/-! ## The host side -/

/-- `HOST.SEND c` (42_command_channel.md R170): while connected the command's byte goes out and the host's copy of the
configuration changes; otherwise it has no step (in the model the stop `notEnabled`, log 11). -/
def Obligations.HostSendUpdatesItsCopy : Prop :=
  ∀ s : State,
    (s.hConn = .connected →
      perform (.hostSend .start) s = .next { s with
        linkH2d := s.linkH2d ++ [0x01#8], emitted := .hostTxByte 0x01#8 :: s.emitted, hActive := .running } ∧
      perform (.hostSend .stop) s = .next { s with
        linkH2d := s.linkH2d ++ [0x02#8], emitted := .hostTxByte 0x02#8 :: s.emitted, hActive := .stopped } ∧
      perform (.hostSend .rate1) s = .next { s with
        linkH2d := s.linkH2d ++ [0x10#8], emitted := .hostTxByte 0x10#8 :: s.emitted, hRate := .r1 } ∧
      perform (.hostSend .rate10) s = .next { s with
        linkH2d := s.linkH2d ++ [0x11#8], emitted := .hostTxByte 0x11#8 :: s.emitted, hRate := .r10 } ∧
      perform (.hostSend .rate20) s = .next { s with
        linkH2d := s.linkH2d ++ [0x12#8], emitted := .hostTxByte 0x12#8 :: s.emitted, hRate := .r20 }) ∧
    (s.hConn ≠ .connected → ∀ c, perform (.hostSend c) s = .fault .notEnabled)

/-- `HOST.CONNECT` (42_command_channel.md R171): from DISCONNECTED or FAILED the collector is emptied and the handshake
byte goes out; otherwise it has no step (in the model the stop `notEnabled`, log 11). -/
def Obligations.HostConnectRequestsHandshake : Prop :=
  ∀ s : State,
    (s.hConn = .disconnected ∨ s.hConn = .failed →
      perform .hostConnect s = .next { s with
        hsRx := [], hConn := .handshaking
        linkH2d := s.linkH2d ++ [0x3F#8], emitted := .hostTxByte 0x3F#8 :: s.emitted }) ∧
    (s.hConn = .handshaking ∨ s.hConn = .connected → perform .hostConnect s = .fault .notEnabled)

/-- The handshake check (42_command_channel.md R173, R174, R175): eight bytes received while handshaking are collected,
and the host is connected exactly when they are the response; otherwise it has failed with `ProtocolFault(mismatch)`. -/
def Obligations.HandshakeCheckIsExact : Prop :=
  ∀ (bs : List Byte) (s : State), s.hConn = .handshaking → s.hsRx = [] → bs.length = 8 →
    performAll (bs.map .hostRx) s = .next { s with
      hsRx := bs
      hConn := if bs = [0x4F#8, 0x53#8, 0x43#8, 0x5F#8, 0x56#8, 0x31#8, 0x0A#8, 0x6D#8] then .connected else .failed
      raised := if bs = [0x4F#8, 0x53#8, 0x43#8, 0x5F#8, 0x56#8, 0x31#8, 0x0A#8, 0x6D#8] then s.raised
        else .protocolMismatch :: s.raised }

/-- `HOST.TIMEOUT`, `HOST.DISCONNECT`, `HOST.XFAULT` (42_command_channel.md R176, R177, R178): where each is enabled and
all it does; where one is not enabled it has no step (in the model the stop `notEnabled`, log 11). -/
def Obligations.SessionEndsAsTheRulesSay : Prop :=
  ∀ s : State,
    perform .hostTimeout s = (if s.hConn = .handshaking then
      .next { s with hConn := .failed, raised := .protocolTimeout :: s.raised } else .fault .notEnabled) ∧
    perform .hostDisconnect s = .next { s with hConn := .disconnected } ∧
    perform .hostXfault s = (if s.hConn = .handshaking ∨ s.hConn = .connected then
      .next { s with hConn := .failed, raised := .transportFault :: s.raised } else .fault .notEnabled)

/-- No session opens by itself (42_command_channel.md R171, R173, R174, R177, R179, R282): only `HOST.CONNECT` takes the
host out of DISCONNECTED, to HANDSHAKING, and out of FAILED to HANDSHAKING. R179's sentence that every transition out of
FAILED is a `HOST.CONNECT` is overruled by R177 and R282, which are enabled in every state: `HOST.DISCONNECT` and
`HOST.RESET` take FAILED to DISCONNECTED. The host becomes connected only from HANDSHAKING, with the eighth byte that
completes the response. -/
def Obligations.OnlyHostConnectOpensASession : Prop :=
  ∀ (e : Event) (s t : State), perform e s = .next t →
    (s.hConn = .disconnected → t.hConn = .disconnected ∨ (e = .hostConnect ∧ t.hConn = .handshaking)) ∧
    (s.hConn = .failed → t.hConn = .failed ∨ (e = .hostConnect ∧ t.hConn = .handshaking) ∨
      ((e = .hostDisconnect ∨ e = .hostReset) ∧ t.hConn = .disconnected)) ∧
    (s.hConn ≠ .connected → t.hConn = .connected →
      s.hConn = .handshaking ∧ s.hsRx = [0x4F#8, 0x53#8, 0x43#8, 0x5F#8, 0x56#8, 0x31#8, 0x0A#8] ∧
      t.hsRx = [0x4F#8, 0x53#8, 0x43#8, 0x5F#8, 0x56#8, 0x31#8, 0x0A#8, 0x6D#8])

/-- `HOST.RX b` (42_command_channel.md R172): collected while handshaking, decoded while connected, discarded otherwise. -/
def Obligations.ReceivedByteIsRoutedByConnection : Prop :=
  ∀ (b : Byte) (s : State),
    (s.hConn = .disconnected ∨ s.hConn = .failed → perform (.hostRx b) s = .next s) ∧
    (s.hConn = .handshaking → s.hsRx.length < 7 → perform (.hostRx b) s = .next { s with hsRx := s.hsRx ++ [b] }) ∧
    (s.hConn = .connected → perform (.hostRx b) s = exec (decodeData s.decPending b) s)

/-! ## Reset -/

/-- The reset table (10_state.md R48): every value the spec gives; `rate` and `h_rate` are `RESET_RATE` of the parameters.
That an array holds nothing written, and where no operation is in progress, is the model's form of it (log 3, log 4). -/
def Obligations.ResetTable : Prop :=
  let s := State.reset
  (s.acq = .stopped ∧ s.rate = s.cfg.resetRate ∧ s.txHead = 0 ∧ s.txTail = 0 ∧ s.txDrainEn = false ∧
    s.txFault = false ∧ s.faultInd = false ∧ s.convPending = false) ∧
  (s.decPending = false ∧ s.hsHead = 0 ∧ s.hsCount = 0 ∧ s.bpCount = 0 ∧ s.dspBusy = false ∧ s.resValid = false ∧
    s.hActive = .stopped ∧ s.hRate = s.cfg.resetRate ∧ s.hConn = .disconnected ∧ s.hsRx = []) ∧
  (s.linkD2h = [] ∧ s.linkH2d = [] ∧ s.hsPos = none ∧ s.convLo = none) ∧
  ∀ a, memRead s.txMem a = none ∧ memRead s.hsMem a = none ∧ memRead s.win a = none

/-- `DEV.RESET` (70_reset_and_hazards.md R281): always enabled, whatever its cause; the device's registers take their
reset values, an operation in progress is abandoned, the host half and the link are unchanged. That the operation
carries its cause, and that the watchdog's is recorded as `WatchdogReset` (60_exceptions.md R250, R258), is the model's
reading (log 20). -/
def Obligations.DeviceResetLeavesHostAndLink : Prop :=
  ∀ (c : ResetCause) (s : State), ∃ t : State, perform (.devReset c) s = .next t ∧
    (t.acq = .stopped ∧ t.rate = s.cfg.resetRate ∧ t.txHead = 0 ∧ t.txTail = 0 ∧ t.txDrainEn = false ∧
      t.txFault = false ∧ t.faultInd = false ∧ t.convPending = false ∧ t.hsPos = none ∧ t.convLo = none) ∧
    SameHost s t ∧ t.linkD2h = s.linkD2h ∧ t.linkH2d = s.linkH2d ∧ t.cfg = s.cfg ∧ t.emitted = s.emitted ∧
    t.raised = if c = .watchdog then .watchdogReset :: s.raised else s.raised

/-- `HOST.RESET` (70_reset_and_hazards.md R282): always enabled; the host's registers take their reset values, the device
half and the link are unchanged. -/
def Obligations.HostResetLeavesDeviceAndLink : Prop :=
  ∀ s : State, ∃ t : State, perform .hostReset s = .next t ∧
    (t.decPending = false ∧ t.hsHead = 0 ∧ t.hsCount = 0 ∧ t.bpCount = 0 ∧ t.dspBusy = false ∧ t.resValid = false ∧
      t.hActive = .stopped ∧ t.hRate = s.cfg.resetRate ∧ t.hConn = .disconnected ∧ t.hsRx = []) ∧
    SameDevice s t ∧ t.linkD2h = s.linkD2h ∧ t.linkH2d = s.linkH2d ∧ t.cfg = s.cfg ∧ t.emitted = s.emitted ∧
    t.raised = s.raised

/-! ## The whole machine -/

/-- A step runs the decoded operation. The next line of the program is performed; where it delivers the byte at the front
of a link queue, the byte leaves the queue and `exec` runs what it decodes to. -/
def Obligations.StepRunsTheDecodedInstruction : Prop :=
  ∀ (s : State) (prog : List Event),
    (∀ e, s.trace = e :: prog → step s = perform e { s with trace := prog }) ∧
    (∀ b q i, s.trace = .linkH2d .deliver :: prog → s.linkH2d = b :: q → s.hsPos = none → s.convLo = none →
      decode .cmd [b] = .ok (i, []) → step s = exec i { s with trace := prog, linkH2d := q }) ∧
    (∀ b q i, s.trace = .linkD2h .deliver :: prog → s.linkD2h = b :: q → s.hConn = .connected →
      decode (.data s.decPending) [b] = .ok (i, []) → step s = exec i { s with trace := prog, linkD2h := q })

/-- With no program the step is a free choice (60_exceptions.md R262; the model's choice, log 1, log 2): some enabled
operation of an agent is performed, or the choice is made again, nothing else having changed. -/
def Obligations.StepWithoutProgramIsAnAgentsChoice : Prop :=
  ∀ s : State, s.trace = [] →
    let s' := { s with draws := s.draws + 1 }
    (∃ e : Event, e.ofAgent = true ∧ enabled e s' = true ∧ step s = perform e s') ∨ step s = .next s'

/-- An operation completes exactly when it is enabled; otherwise it has no step (00_scope.md R12). -/
def Obligations.OperationsCompleteExactlyWhenEnabled : Prop :=
  ∀ (e : Event) (s : State),
    (enabled e s = true → ∃ t, perform e s = .next t) ∧ (enabled e s = false → perform e s = .fault .notEnabled)

/-- The invariant (10_state.md R47) is kept by every step. -/
def Obligations.EveryStepKeepsInv : Prop := ∀ s t : State, StateInv s → step s = .next t → StateInv t

/-- The invariant holds after reset (10_state.md R47, R48): in `State.reset`, whose parameters are the test instance (the
model's choice, log 3), and in the reset state of every choice of parameters that meets the constraints of
00_scope.md R6, `rate` and `h_rate` being its `RESET_RATE`. -/
def Obligations.ResetHasInv : Prop :=
  StateInv State.reset ∧
  ∀ p : Params, p.Wf → StateInv { State.reset with cfg := p, rate := p.resetRate, hRate := p.resetRate }

/-- The two halves share no state and meet only on the link (60_exceptions.md R269, 00_scope.md R3). Neither reads the
other: with any other host half in the state, an operation of the device half, or of the link towards it, has the same
outcome but for that host half, and the other way round. Neither writes the other: an operation of the device half, or
of the link towards it, leaves the host half alone, removes at most the front byte of `link_h2d` and only appends to
`link_d2h`; and the other way round. -/
def Obligations.HalvesMeetOnlyOnTheLink : Prop :=
  (∀ (e : Event) (s u : State),
    (e.ofDevice = true → perform e (s.withHostOf u) = mapNext (fun t => t.withHostOf u) (perform e s)) ∧
    (e.ofHost = true → perform e (s.withDeviceOf u) = mapNext (fun t => t.withDeviceOf u) (perform e s))) ∧
  ∀ (e : Event) (s t : State), perform e s = .next t →
    (e.ofDevice = true → SameHost s t ∧ (t.linkH2d = s.linkH2d ∨ t.linkH2d = s.linkH2d.tail) ∧
      ∃ bs, t.linkD2h = s.linkD2h ++ bs) ∧
    (e.ofHost = true → SameDevice s t ∧ (t.linkD2h = s.linkD2h ∨ t.linkD2h = s.linkD2h.tail) ∧
      ∃ bs, t.linkH2d = s.linkH2d ++ bs)

/-- Who writes what (20_memory.md R79, 10_state.md R25, R42): `tx_fault` is written by a push (of `CONV.DONE`, of a
command byte, or written out) and by `DEV.RESET` only, and cleared by `DEV.RESET` only, the result registers are written
by `DSP.DONE` and `HOST.RESET` only, `acq` and `rate` by a command byte and `DEV.RESET` only, and the parameters by
nothing (70_reset_and_hazards.md R285 item 1). -/
def Obligations.OnlyTheNamedWritersWrite : Prop :=
  ∀ (e : Event) (s t : State), perform e s = .next t →
    (t.txFault ≠ s.txFault →
      (∃ v, e = .convDone v) ∨ (∃ b, e = .txPush b) ∨ (∃ b, e = .cmd b) ∨ e = .linkH2d .deliver ∨
      (∃ b, e = .linkH2d (.garble b)) ∨ ∃ c, e = .devReset c) ∧
    (s.txFault = true → t.txFault = false → ∃ c, e = .devReset c) ∧
    ((t.resValid, t.resSpec, t.resM, t.resFs, t.resStats) ≠ (s.resValid, s.resSpec, s.resM, s.resFs, s.resStats) →
      e = .dspDone ∨ e = .hostReset) ∧
    (t.acq ≠ s.acq ∨ t.rate ≠ s.rate →
      (∃ b, e = .cmd b) ∨ e = .linkH2d .deliver ∨ (∃ b, e = .linkH2d (.garble b)) ∨ ∃ c, e = .devReset c) ∧
    t.cfg = s.cfg

/-- The link (20_memory.md R70): a queue's front byte is removed and the rest keeps its order; a dropped byte raises
nothing; delivery and garbling raise the event with the byte or the drawn one; `LINK_MODEL` says which steps are
allowed, and none is enabled on an empty queue. That a step which is not enabled is the stop `notEnabled` is the model's
choice (log 11). -/
def Obligations.LinkActsOnTheFrontByte : Prop :=
  ∀ (b : Byte) (q : List Byte) (s : State),
    (s.linkD2h = b :: q →
      perform (.linkD2h .deliver) s = perform (.hostRx b) { s with linkD2h := q } ∧
      (s.cfg.linkModel ≠ .lossless → perform (.linkD2h .drop) s = .next { s with linkD2h := q }) ∧
      (s.cfg.linkModel = .noisy → ∀ b', perform (.linkD2h (.garble b')) s = perform (.hostRx b') { s with linkD2h := q })) ∧
    (s.linkH2d = b :: q →
      perform (.linkH2d .deliver) s = perform (.cmd b) { s with linkH2d := q } ∧
      (s.cfg.linkModel ≠ .lossless → perform (.linkH2d .drop) s = .next { s with linkH2d := q }) ∧
      (s.cfg.linkModel = .noisy → ∀ b', perform (.linkH2d (.garble b')) s = perform (.cmd b') { s with linkH2d := q })) ∧
    (s.cfg.linkModel = .lossless →
      perform (.linkD2h .drop) s = .fault .notEnabled ∧ perform (.linkH2d .drop) s = .fault .notEnabled) ∧
    (s.linkD2h = [] → ∀ act, perform (.linkD2h act) s = .fault .notEnabled) ∧
    (s.linkH2d = [] → ∀ act, perform (.linkH2d act) s = .fault .notEnabled) ∧
    (s.cfg.linkModel ≠ .noisy → ∀ b',
      perform (.linkD2h (.garble b')) s = .fault .notEnabled ∧ perform (.linkH2d (.garble b')) s = .fault .notEnabled)

/-- End to end (00_scope.md R3): with a quiet line and an empty ring, a Sample converted while RUNNING reaches the host
ring unchanged by `TICK`, `CONV.DONE` and two transfers, and the line and the ring are quiet again. The operations are the
six lines of a trace loaded into the state, and `CONV.DONE` is taken whole: both are the model's form (logs 1, 8). -/
def Obligations.SampleReachesTheHostRing : Prop :=
  ∀ (v : Sample) (s : State), StateInv s → 4 ≤ s.cfg.txN → s.acq = .running → s.convLo = none → s.grain = .whole →
    s.txHead = s.txTail → s.linkD2h = [] → s.hConn = .connected →
    ∃ t : State,
      core.run 6 { s with trace := traceSample v ++ traceXfer ++ traceXfer } = .next t ∧
      t.hsRead s.hsWriteCell = v.toCell ∧ t.hsHead = (s.hsHead + 1) % s.cfg.hsN ∧
      t.hsCount = min (s.hsCount + 1) s.cfg.hsN ∧ t.decPending = false ∧
      t.txHead = t.txTail ∧ t.linkD2h = [] ∧ t.txFault = s.txFault ∧ t.trace = []
end

