-- ==== Sys2Proof/Laws/Memory.lean ====
section
/-! SUPPORT. What reading and writing an array does: a write is read back, leaves every other cell alone, keeps the
canonical form, and stays within the array. -/

namespace Sys2Proof.Machine

variable {β : Type}

theorem memRead_memWrite_same (m : List (Nat × β)) (a : Nat) (v : β) : memRead (memWrite m a v) a = some v := by
  induction m with
  | nil => simp [memWrite, memRead]
  | cons c rest ih =>
    obtain ⟨k, x⟩ := c
    unfold memWrite
    split_ifs with h1 h2
    · simp [memRead]
    · simp [memRead]
    · simp [memRead, ih, Ne.symm h2]

theorem memRead_memWrite_other (m : List (Nat × β)) {a a' : Nat} (v : β) (h : a' ≠ a) :
    memRead (memWrite m a v) a' = memRead m a' := by
  induction m with
  | nil => simp [memWrite, memRead, Ne.symm h]
  | cons c rest ih =>
    obtain ⟨k, x⟩ := c
    unfold memWrite
    split_ifs with h1 h2
    · simp [memRead, Ne.symm h]
    · subst h2; simp [memRead, Ne.symm h]
    · simp [memRead, ih]

/-- Every listed index is at least `lo`, and the list is canonical. -/
theorem wf_cons_iff (k : Nat) (x : β) (m : List (Nat × β)) :
    Memory.wf ((k, x) :: m) = true ↔ (∀ c ∈ m, k < c.1) ∧ Memory.wf m = true := by
  induction m generalizing k x with
  | nil => simp [Memory.wf]
  | cons c rest ih =>
    obtain ⟨k', x'⟩ := c
    simp only [Memory.wf, Bool.and_eq_true, decide_eq_true_eq, List.mem_cons, forall_eq_or_imp]
    rw [ih k' x']
    constructor
    · rintro ⟨h1, h2, h3⟩
      exact ⟨⟨h1, fun c hc => h1.trans (h2 c hc)⟩, h2, h3⟩
    · rintro ⟨⟨h1, -⟩, h3⟩
      exact ⟨h1, h3⟩

theorem mem_memWrite {m : List (Nat × β)} {a : Nat} {v : β} {c : Nat × β} (h : c ∈ memWrite m a v) :
    c = (a, v) ∨ c ∈ m := by
  induction m with
  | nil => simpa [memWrite] using h
  | cons d rest ih =>
    obtain ⟨k, x⟩ := d
    unfold memWrite at h
    split_ifs at h with h1 h2
    · simpa using h
    · rcases List.mem_cons.1 h with h | h
      · exact Or.inl h
      · exact Or.inr (List.mem_cons_of_mem _ h)
    · rcases List.mem_cons.1 h with h | h
      · exact Or.inr (h ▸ List.mem_cons_self)
      · exact (ih h).imp id (List.mem_cons_of_mem _)

/-- A write keeps the canonical form. -/
theorem memWrite_wf (m : List (Nat × β)) (a : Nat) (v : β) (h : Memory.wf m = true) :
    Memory.wf (memWrite m a v) = true := by
  induction m with
  | nil => simp [memWrite, Memory.wf]
  | cons c rest ih =>
    obtain ⟨k, x⟩ := c
    obtain ⟨h1, h2⟩ := (wf_cons_iff k x rest).1 h
    unfold memWrite
    split_ifs with ha hk
    · exact (wf_cons_iff _ _ _).2 ⟨by
        intro c hc
        rcases List.mem_cons.1 hc with rfl | hc
        · exact ha
        · exact ha.trans (h1 c hc), h⟩
    · subst hk; exact (wf_cons_iff _ _ _).2 ⟨h1, h2⟩
    · refine (wf_cons_iff _ _ _).2 ⟨fun c hc => ?_, ih h2⟩
      rcases mem_memWrite hc with rfl | hc
      · simp only; omega
      · exact h1 c hc

/-- A write within the array keeps every listed index within it. -/
theorem memWrite_lt {m : List (Nat × β)} {a n : Nat} (v : β) (ha : a < n) (h : ∀ c ∈ m, c.1 < n) :
    ∀ c ∈ memWrite m a v, c.1 < n := by
  intro c hc
  rcases mem_memWrite hc with rfl | hc
  · exact ha
  · exact h c hc

theorem memWriteFrom_wf (vs : List β) (m : List (Nat × β)) (base : Nat) (h : Memory.wf m = true) :
    Memory.wf (memWriteFrom m base vs) = true := by
  induction vs generalizing m base with
  | nil => exact h
  | cons v vs ih => exact ih _ _ (memWrite_wf m base v h)

theorem memWriteFrom_lt (vs : List β) {m : List (Nat × β)} {base n : Nat} (hn : base + vs.length ≤ n)
    (h : ∀ c ∈ m, c.1 < n) : ∀ c ∈ memWriteFrom m base vs, c.1 < n := by
  induction vs generalizing m base with
  | nil => exact h
  | cons v vs ih =>
    simp only [List.length_cons] at hn
    exact ih (by omega) (memWrite_lt v (by omega) h)

/-- A cell written by a run of writes holds its value. -/
theorem memRead_memWriteFrom_in (vs : List β) (m : List (Nat × β)) (base j : Nat) (hj : j < vs.length) :
    memRead (memWriteFrom m base vs) (base + j) = some vs[j] := by
  induction vs generalizing m base j with
  | nil => simp at hj
  | cons v vs ih =>
    cases j with
    | zero =>
      have : ∀ (ws : List β) (m : List (Nat × β)) (b a : Nat), a < b → memRead (memWriteFrom m b ws) a = memRead m a := by
        intro ws
        induction ws with
        | nil => intros; rfl
        | cons w ws ih' =>
          intro m b a hab
          rw [memWriteFrom, ih' _ _ _ (by omega), memRead_memWrite_other _ _ (by omega)]
      simp only [memWriteFrom, Nat.add_zero, List.getElem_cons_zero]
      rw [this vs _ _ _ (by omega), memRead_memWrite_same]
    | succ j =>
      have := ih (memWrite m base v) (base + 1) j (by simpa using hj)
      rw [show base + 1 + j = base + (j + 1) by omega] at this
      simpa [memWriteFrom] using this

/-- A cell outside a run of writes is unchanged. -/
theorem memRead_memWriteFrom_out (vs : List β) (m : List (Nat × β)) (base a : Nat)
    (h : a < base ∨ base + vs.length ≤ a) : memRead (memWriteFrom m base vs) a = memRead m a := by
  induction vs generalizing m base with
  | nil => rfl
  | cons v vs ih =>
    simp only [List.length_cons] at h
    rw [memWriteFrom, ih _ _ (by omega), memRead_memWrite_other _ _ (by omega)]

end Sys2Proof.Machine
end

