-- ==== Sys2Proof/Laws/State.lean ====
section
/-! SUPPORT. For each update of the state that has a name, one lemma per field (true by rfl, for the simplifier), so
that no later proof unfolds a record update. -/

namespace Sys2Proof.Machine

variable (s : State)

/-! ### `raiseFault` -/

@[simp] theorem raiseFault_cfg (f : Raised) : (raiseFault f s).cfg = s.cfg := rfl
@[simp] theorem raiseFault_acq (f : Raised) : (raiseFault f s).acq = s.acq := rfl
@[simp] theorem raiseFault_rate (f : Raised) : (raiseFault f s).rate = s.rate := rfl
@[simp] theorem raiseFault_txMem (f : Raised) : (raiseFault f s).txMem = s.txMem := rfl
@[simp] theorem raiseFault_txHead (f : Raised) : (raiseFault f s).txHead = s.txHead := rfl
@[simp] theorem raiseFault_txTail (f : Raised) : (raiseFault f s).txTail = s.txTail := rfl
@[simp] theorem raiseFault_txDrainEn (f : Raised) : (raiseFault f s).txDrainEn = s.txDrainEn := rfl
@[simp] theorem raiseFault_txFault (f : Raised) : (raiseFault f s).txFault = s.txFault := rfl
@[simp] theorem raiseFault_faultInd (f : Raised) : (raiseFault f s).faultInd = s.faultInd := rfl
@[simp] theorem raiseFault_convPending (f : Raised) : (raiseFault f s).convPending = s.convPending := rfl
@[simp] theorem raiseFault_hsPos (f : Raised) : (raiseFault f s).hsPos = s.hsPos := rfl
@[simp] theorem raiseFault_convLo (f : Raised) : (raiseFault f s).convLo = s.convLo := rfl
@[simp] theorem raiseFault_linkD2h (f : Raised) : (raiseFault f s).linkD2h = s.linkD2h := rfl
@[simp] theorem raiseFault_linkH2d (f : Raised) : (raiseFault f s).linkH2d = s.linkH2d := rfl
@[simp] theorem raiseFault_decPending (f : Raised) : (raiseFault f s).decPending = s.decPending := rfl
@[simp] theorem raiseFault_decHigh (f : Raised) : (raiseFault f s).decHigh = s.decHigh := rfl
@[simp] theorem raiseFault_hsMem (f : Raised) : (raiseFault f s).hsMem = s.hsMem := rfl
@[simp] theorem raiseFault_hsHead (f : Raised) : (raiseFault f s).hsHead = s.hsHead := rfl
@[simp] theorem raiseFault_hsCount (f : Raised) : (raiseFault f s).hsCount = s.hsCount := rfl
@[simp] theorem raiseFault_bpCount (f : Raised) : (raiseFault f s).bpCount = s.bpCount := rfl
@[simp] theorem raiseFault_dspBusy (f : Raised) : (raiseFault f s).dspBusy = s.dspBusy := rfl
@[simp] theorem raiseFault_win (f : Raised) : (raiseFault f s).win = s.win := rfl
@[simp] theorem raiseFault_passL (f : Raised) : (raiseFault f s).passL = s.passL := rfl
@[simp] theorem raiseFault_passFs (f : Raised) : (raiseFault f s).passFs = s.passFs := rfl
@[simp] theorem raiseFault_resValid (f : Raised) : (raiseFault f s).resValid = s.resValid := rfl
@[simp] theorem raiseFault_resSpec (f : Raised) : (raiseFault f s).resSpec = s.resSpec := rfl
@[simp] theorem raiseFault_resM (f : Raised) : (raiseFault f s).resM = s.resM := rfl
@[simp] theorem raiseFault_resFs (f : Raised) : (raiseFault f s).resFs = s.resFs := rfl
@[simp] theorem raiseFault_resStats (f : Raised) : (raiseFault f s).resStats = s.resStats := rfl
@[simp] theorem raiseFault_hActive (f : Raised) : (raiseFault f s).hActive = s.hActive := rfl
@[simp] theorem raiseFault_hRate (f : Raised) : (raiseFault f s).hRate = s.hRate := rfl
@[simp] theorem raiseFault_hConn (f : Raised) : (raiseFault f s).hConn = s.hConn := rfl
@[simp] theorem raiseFault_hsRx (f : Raised) : (raiseFault f s).hsRx = s.hsRx := rfl
@[simp] theorem raiseFault_grain (f : Raised) : (raiseFault f s).grain = s.grain := rfl
@[simp] theorem raiseFault_devEpoch (f : Raised) : (raiseFault f s).devEpoch = s.devEpoch := rfl
@[simp] theorem raiseFault_hostEpoch (f : Raised) : (raiseFault f s).hostEpoch = s.hostEpoch := rfl
@[simp] theorem raiseFault_raised (f : Raised) : (raiseFault f s).raised = f :: s.raised := rfl
@[simp] theorem raiseFault_emitted (f : Raised) : (raiseFault f s).emitted = s.emitted := rfl
@[simp] theorem raiseFault_trace (f : Raised) : (raiseFault f s).trace = s.trace := rfl
@[simp] theorem raiseFault_draws (f : Raised) : (raiseFault f s).draws = s.draws := rfl

/-! ### `emit` -/

@[simp] theorem emit_cfg (e : Emitted) : (emit e s).cfg = s.cfg := rfl
@[simp] theorem emit_acq (e : Emitted) : (emit e s).acq = s.acq := rfl
@[simp] theorem emit_rate (e : Emitted) : (emit e s).rate = s.rate := rfl
@[simp] theorem emit_txMem (e : Emitted) : (emit e s).txMem = s.txMem := rfl
@[simp] theorem emit_txHead (e : Emitted) : (emit e s).txHead = s.txHead := rfl
@[simp] theorem emit_txTail (e : Emitted) : (emit e s).txTail = s.txTail := rfl
@[simp] theorem emit_txDrainEn (e : Emitted) : (emit e s).txDrainEn = s.txDrainEn := rfl
@[simp] theorem emit_txFault (e : Emitted) : (emit e s).txFault = s.txFault := rfl
@[simp] theorem emit_faultInd (e : Emitted) : (emit e s).faultInd = s.faultInd := rfl
@[simp] theorem emit_convPending (e : Emitted) : (emit e s).convPending = s.convPending := rfl
@[simp] theorem emit_hsPos (e : Emitted) : (emit e s).hsPos = s.hsPos := rfl
@[simp] theorem emit_convLo (e : Emitted) : (emit e s).convLo = s.convLo := rfl
@[simp] theorem emit_linkD2h (e : Emitted) : (emit e s).linkD2h = s.linkD2h := rfl
@[simp] theorem emit_linkH2d (e : Emitted) : (emit e s).linkH2d = s.linkH2d := rfl
@[simp] theorem emit_decPending (e : Emitted) : (emit e s).decPending = s.decPending := rfl
@[simp] theorem emit_decHigh (e : Emitted) : (emit e s).decHigh = s.decHigh := rfl
@[simp] theorem emit_hsMem (e : Emitted) : (emit e s).hsMem = s.hsMem := rfl
@[simp] theorem emit_hsHead (e : Emitted) : (emit e s).hsHead = s.hsHead := rfl
@[simp] theorem emit_hsCount (e : Emitted) : (emit e s).hsCount = s.hsCount := rfl
@[simp] theorem emit_bpCount (e : Emitted) : (emit e s).bpCount = s.bpCount := rfl
@[simp] theorem emit_dspBusy (e : Emitted) : (emit e s).dspBusy = s.dspBusy := rfl
@[simp] theorem emit_win (e : Emitted) : (emit e s).win = s.win := rfl
@[simp] theorem emit_passL (e : Emitted) : (emit e s).passL = s.passL := rfl
@[simp] theorem emit_passFs (e : Emitted) : (emit e s).passFs = s.passFs := rfl
@[simp] theorem emit_resValid (e : Emitted) : (emit e s).resValid = s.resValid := rfl
@[simp] theorem emit_resSpec (e : Emitted) : (emit e s).resSpec = s.resSpec := rfl
@[simp] theorem emit_resM (e : Emitted) : (emit e s).resM = s.resM := rfl
@[simp] theorem emit_resFs (e : Emitted) : (emit e s).resFs = s.resFs := rfl
@[simp] theorem emit_resStats (e : Emitted) : (emit e s).resStats = s.resStats := rfl
@[simp] theorem emit_hActive (e : Emitted) : (emit e s).hActive = s.hActive := rfl
@[simp] theorem emit_hRate (e : Emitted) : (emit e s).hRate = s.hRate := rfl
@[simp] theorem emit_hConn (e : Emitted) : (emit e s).hConn = s.hConn := rfl
@[simp] theorem emit_hsRx (e : Emitted) : (emit e s).hsRx = s.hsRx := rfl
@[simp] theorem emit_grain (e : Emitted) : (emit e s).grain = s.grain := rfl
@[simp] theorem emit_devEpoch (e : Emitted) : (emit e s).devEpoch = s.devEpoch := rfl
@[simp] theorem emit_hostEpoch (e : Emitted) : (emit e s).hostEpoch = s.hostEpoch := rfl
@[simp] theorem emit_raised (e : Emitted) : (emit e s).raised = s.raised := rfl
@[simp] theorem emit_emitted (e : Emitted) : (emit e s).emitted = e :: s.emitted := rfl
@[simp] theorem emit_trace (e : Emitted) : (emit e s).trace = s.trace := rfl
@[simp] theorem emit_draws (e : Emitted) : (emit e s).draws = s.draws := rfl

/-! ### `failClosed` -/

@[simp] theorem failClosed_cfg (f : Raised) : (failClosed f s).cfg = s.cfg := rfl
@[simp] theorem failClosed_acq (f : Raised) : (failClosed f s).acq = s.acq := rfl
@[simp] theorem failClosed_rate (f : Raised) : (failClosed f s).rate = s.rate := rfl
@[simp] theorem failClosed_txMem (f : Raised) : (failClosed f s).txMem = s.txMem := rfl
@[simp] theorem failClosed_txHead (f : Raised) : (failClosed f s).txHead = s.txHead := rfl
@[simp] theorem failClosed_txTail (f : Raised) : (failClosed f s).txTail = s.txTail := rfl
@[simp] theorem failClosed_txDrainEn (f : Raised) : (failClosed f s).txDrainEn = s.txDrainEn := rfl
@[simp] theorem failClosed_txFault (f : Raised) : (failClosed f s).txFault = s.txFault := rfl
@[simp] theorem failClosed_faultInd (f : Raised) : (failClosed f s).faultInd = s.faultInd := rfl
@[simp] theorem failClosed_convPending (f : Raised) : (failClosed f s).convPending = s.convPending := rfl
@[simp] theorem failClosed_hsPos (f : Raised) : (failClosed f s).hsPos = s.hsPos := rfl
@[simp] theorem failClosed_convLo (f : Raised) : (failClosed f s).convLo = s.convLo := rfl
@[simp] theorem failClosed_linkD2h (f : Raised) : (failClosed f s).linkD2h = s.linkD2h := rfl
@[simp] theorem failClosed_linkH2d (f : Raised) : (failClosed f s).linkH2d = s.linkH2d := rfl
@[simp] theorem failClosed_decPending (f : Raised) : (failClosed f s).decPending = s.decPending := rfl
@[simp] theorem failClosed_decHigh (f : Raised) : (failClosed f s).decHigh = s.decHigh := rfl
@[simp] theorem failClosed_hsMem (f : Raised) : (failClosed f s).hsMem = s.hsMem := rfl
@[simp] theorem failClosed_hsHead (f : Raised) : (failClosed f s).hsHead = s.hsHead := rfl
@[simp] theorem failClosed_hsCount (f : Raised) : (failClosed f s).hsCount = s.hsCount := rfl
@[simp] theorem failClosed_bpCount (f : Raised) : (failClosed f s).bpCount = s.bpCount := rfl
@[simp] theorem failClosed_dspBusy (f : Raised) : (failClosed f s).dspBusy = s.dspBusy := rfl
@[simp] theorem failClosed_win (f : Raised) : (failClosed f s).win = s.win := rfl
@[simp] theorem failClosed_passL (f : Raised) : (failClosed f s).passL = s.passL := rfl
@[simp] theorem failClosed_passFs (f : Raised) : (failClosed f s).passFs = s.passFs := rfl
@[simp] theorem failClosed_resValid (f : Raised) : (failClosed f s).resValid = s.resValid := rfl
@[simp] theorem failClosed_resSpec (f : Raised) : (failClosed f s).resSpec = s.resSpec := rfl
@[simp] theorem failClosed_resM (f : Raised) : (failClosed f s).resM = s.resM := rfl
@[simp] theorem failClosed_resFs (f : Raised) : (failClosed f s).resFs = s.resFs := rfl
@[simp] theorem failClosed_resStats (f : Raised) : (failClosed f s).resStats = s.resStats := rfl
@[simp] theorem failClosed_hActive (f : Raised) : (failClosed f s).hActive = s.hActive := rfl
@[simp] theorem failClosed_hRate (f : Raised) : (failClosed f s).hRate = s.hRate := rfl
@[simp] theorem failClosed_hConn (f : Raised) : (failClosed f s).hConn = .failed := rfl
@[simp] theorem failClosed_hsRx (f : Raised) : (failClosed f s).hsRx = s.hsRx := rfl
@[simp] theorem failClosed_grain (f : Raised) : (failClosed f s).grain = s.grain := rfl
@[simp] theorem failClosed_devEpoch (f : Raised) : (failClosed f s).devEpoch = s.devEpoch := rfl
@[simp] theorem failClosed_hostEpoch (f : Raised) : (failClosed f s).hostEpoch = s.hostEpoch := rfl
@[simp] theorem failClosed_raised (f : Raised) : (failClosed f s).raised = f :: s.raised := rfl
@[simp] theorem failClosed_emitted (f : Raised) : (failClosed f s).emitted = s.emitted := rfl
@[simp] theorem failClosed_trace (f : Raised) : (failClosed f s).trace = s.trace := rfl
@[simp] theorem failClosed_draws (f : Raised) : (failClosed f s).draws = s.draws := rfl

/-! ### `hsWrite` -/

@[simp] theorem hsWrite_cfg (v : Cell16) : (hsWrite v s).cfg = s.cfg := rfl
@[simp] theorem hsWrite_acq (v : Cell16) : (hsWrite v s).acq = s.acq := rfl
@[simp] theorem hsWrite_rate (v : Cell16) : (hsWrite v s).rate = s.rate := rfl
@[simp] theorem hsWrite_txMem (v : Cell16) : (hsWrite v s).txMem = s.txMem := rfl
@[simp] theorem hsWrite_txHead (v : Cell16) : (hsWrite v s).txHead = s.txHead := rfl
@[simp] theorem hsWrite_txTail (v : Cell16) : (hsWrite v s).txTail = s.txTail := rfl
@[simp] theorem hsWrite_txDrainEn (v : Cell16) : (hsWrite v s).txDrainEn = s.txDrainEn := rfl
@[simp] theorem hsWrite_txFault (v : Cell16) : (hsWrite v s).txFault = s.txFault := rfl
@[simp] theorem hsWrite_faultInd (v : Cell16) : (hsWrite v s).faultInd = s.faultInd := rfl
@[simp] theorem hsWrite_convPending (v : Cell16) : (hsWrite v s).convPending = s.convPending := rfl
@[simp] theorem hsWrite_hsPos (v : Cell16) : (hsWrite v s).hsPos = s.hsPos := rfl
@[simp] theorem hsWrite_convLo (v : Cell16) : (hsWrite v s).convLo = s.convLo := rfl
@[simp] theorem hsWrite_linkD2h (v : Cell16) : (hsWrite v s).linkD2h = s.linkD2h := rfl
@[simp] theorem hsWrite_linkH2d (v : Cell16) : (hsWrite v s).linkH2d = s.linkH2d := rfl
@[simp] theorem hsWrite_decPending (v : Cell16) : (hsWrite v s).decPending = s.decPending := rfl
@[simp] theorem hsWrite_decHigh (v : Cell16) : (hsWrite v s).decHigh = s.decHigh := rfl
@[simp] theorem hsWrite_hsMem (v : Cell16) : (hsWrite v s).hsMem = memWrite s.hsMem s.hsWriteCell v := rfl
@[simp] theorem hsWrite_hsHead (v : Cell16) : (hsWrite v s).hsHead = ringSucc s.cfg.hsN s.hsHead := rfl
@[simp] theorem hsWrite_hsCount (v : Cell16) : (hsWrite v s).hsCount = min (s.hsCount + 1) s.cfg.hsN := rfl
@[simp] theorem hsWrite_bpCount (v : Cell16) : (hsWrite v s).bpCount = s.bpCount := rfl
@[simp] theorem hsWrite_dspBusy (v : Cell16) : (hsWrite v s).dspBusy = s.dspBusy := rfl
@[simp] theorem hsWrite_win (v : Cell16) : (hsWrite v s).win = s.win := rfl
@[simp] theorem hsWrite_passL (v : Cell16) : (hsWrite v s).passL = s.passL := rfl
@[simp] theorem hsWrite_passFs (v : Cell16) : (hsWrite v s).passFs = s.passFs := rfl
@[simp] theorem hsWrite_resValid (v : Cell16) : (hsWrite v s).resValid = s.resValid := rfl
@[simp] theorem hsWrite_resSpec (v : Cell16) : (hsWrite v s).resSpec = s.resSpec := rfl
@[simp] theorem hsWrite_resM (v : Cell16) : (hsWrite v s).resM = s.resM := rfl
@[simp] theorem hsWrite_resFs (v : Cell16) : (hsWrite v s).resFs = s.resFs := rfl
@[simp] theorem hsWrite_resStats (v : Cell16) : (hsWrite v s).resStats = s.resStats := rfl
@[simp] theorem hsWrite_hActive (v : Cell16) : (hsWrite v s).hActive = s.hActive := rfl
@[simp] theorem hsWrite_hRate (v : Cell16) : (hsWrite v s).hRate = s.hRate := rfl
@[simp] theorem hsWrite_hConn (v : Cell16) : (hsWrite v s).hConn = s.hConn := rfl
@[simp] theorem hsWrite_hsRx (v : Cell16) : (hsWrite v s).hsRx = s.hsRx := rfl
@[simp] theorem hsWrite_grain (v : Cell16) : (hsWrite v s).grain = s.grain := rfl
@[simp] theorem hsWrite_devEpoch (v : Cell16) : (hsWrite v s).devEpoch = s.devEpoch := rfl
@[simp] theorem hsWrite_hostEpoch (v : Cell16) : (hsWrite v s).hostEpoch = s.hostEpoch := rfl
@[simp] theorem hsWrite_raised (v : Cell16) : (hsWrite v s).raised = s.raised := rfl
@[simp] theorem hsWrite_emitted (v : Cell16) : (hsWrite v s).emitted = s.emitted := rfl
@[simp] theorem hsWrite_trace (v : Cell16) : (hsWrite v s).trace = s.trace := rfl
@[simp] theorem hsWrite_draws (v : Cell16) : (hsWrite v s).draws = s.draws := rfl

/-! ### `bpAccept` -/

@[simp] theorem bpAccept_cfg : (bpAccept s).cfg = s.cfg := rfl
@[simp] theorem bpAccept_acq : (bpAccept s).acq = s.acq := rfl
@[simp] theorem bpAccept_rate : (bpAccept s).rate = s.rate := rfl
@[simp] theorem bpAccept_txMem : (bpAccept s).txMem = s.txMem := rfl
@[simp] theorem bpAccept_txHead : (bpAccept s).txHead = s.txHead := rfl
@[simp] theorem bpAccept_txTail : (bpAccept s).txTail = s.txTail := rfl
@[simp] theorem bpAccept_txDrainEn : (bpAccept s).txDrainEn = s.txDrainEn := rfl
@[simp] theorem bpAccept_txFault : (bpAccept s).txFault = s.txFault := rfl
@[simp] theorem bpAccept_faultInd : (bpAccept s).faultInd = s.faultInd := rfl
@[simp] theorem bpAccept_convPending : (bpAccept s).convPending = s.convPending := rfl
@[simp] theorem bpAccept_hsPos : (bpAccept s).hsPos = s.hsPos := rfl
@[simp] theorem bpAccept_convLo : (bpAccept s).convLo = s.convLo := rfl
@[simp] theorem bpAccept_linkD2h : (bpAccept s).linkD2h = s.linkD2h := rfl
@[simp] theorem bpAccept_linkH2d : (bpAccept s).linkH2d = s.linkH2d := rfl
@[simp] theorem bpAccept_decPending : (bpAccept s).decPending = s.decPending := rfl
@[simp] theorem bpAccept_decHigh : (bpAccept s).decHigh = s.decHigh := rfl
@[simp] theorem bpAccept_hsMem : (bpAccept s).hsMem = s.hsMem := rfl
@[simp] theorem bpAccept_hsHead : (bpAccept s).hsHead = s.hsHead := rfl
@[simp] theorem bpAccept_hsCount : (bpAccept s).hsCount = s.hsCount := rfl
@[simp] theorem bpAccept_bpCount : (bpAccept s).bpCount = s.bpCount := rfl
@[simp] theorem bpAccept_dspBusy : (bpAccept s).dspBusy = true := rfl
@[simp] theorem bpAccept_win : (bpAccept s).win = memWriteFrom s.win 0 (readRecent s (min s.cfg.w s.hsCount)) := rfl
@[simp] theorem bpAccept_passL : (bpAccept s).passL = min s.cfg.w s.hsCount := rfl
@[simp] theorem bpAccept_passFs : (bpAccept s).passFs = s.hRate := rfl
@[simp] theorem bpAccept_resValid : (bpAccept s).resValid = s.resValid := rfl
@[simp] theorem bpAccept_resSpec : (bpAccept s).resSpec = s.resSpec := rfl
@[simp] theorem bpAccept_resM : (bpAccept s).resM = s.resM := rfl
@[simp] theorem bpAccept_resFs : (bpAccept s).resFs = s.resFs := rfl
@[simp] theorem bpAccept_resStats : (bpAccept s).resStats = s.resStats := rfl
@[simp] theorem bpAccept_hActive : (bpAccept s).hActive = s.hActive := rfl
@[simp] theorem bpAccept_hRate : (bpAccept s).hRate = s.hRate := rfl
@[simp] theorem bpAccept_hConn : (bpAccept s).hConn = s.hConn := rfl
@[simp] theorem bpAccept_hsRx : (bpAccept s).hsRx = s.hsRx := rfl
@[simp] theorem bpAccept_grain : (bpAccept s).grain = s.grain := rfl
@[simp] theorem bpAccept_devEpoch : (bpAccept s).devEpoch = s.devEpoch := rfl
@[simp] theorem bpAccept_hostEpoch : (bpAccept s).hostEpoch = s.hostEpoch := rfl
@[simp] theorem bpAccept_raised : (bpAccept s).raised = s.raised := rfl
@[simp] theorem bpAccept_emitted : (bpAccept s).emitted = s.emitted := rfl
@[simp] theorem bpAccept_trace : (bpAccept s).trace = s.trace := rfl
@[simp] theorem bpAccept_draws : (bpAccept s).draws = s.draws := rfl

end Sys2Proof.Machine
end

