-- ==== Sys2Proof/Laws/Ops.lean ====
section
/-! SUPPORT. What each shared operation can do, said once: its result as one record, every changed field with its new
value. Later proofs rewrite with these and never unfold the operation. The fields an operation does not change
have a lemma each, for the simplifier. -/

namespace Sys2Proof.Machine

variable (s : State)

/-! ### `txPush` -/

/-- Everything about one push: the byte is stored at `tx_head` and the drain armed, or it is dropped and the overflow shown (41_ring_buffers.md R141). -/
theorem txPush_eq (b : Byte) : txPush b s =
    { s with
      txMem := if txFull s then s.txMem else memWrite s.txMem s.txPushCell b
      txHead := if txFull s then s.txHead else ringSucc s.cfg.txN s.txHead
      txDrainEn := s.txDrainEn || !txFull s
      txFault := s.txFault || txFull s
      faultInd := if txFull s then overflowInd s.cfg.faultIndMode s.faultInd else s.faultInd
      raised := if txFull s then .txOverflow :: s.raised else s.raised } := by
  unfold txPush; split <;> simp_all [raiseFault]

@[simp] theorem txPush_cfg (b : Byte) : (txPush b s).cfg = s.cfg := by rw [txPush_eq]
@[simp] theorem txPush_acq (b : Byte) : (txPush b s).acq = s.acq := by rw [txPush_eq]
@[simp] theorem txPush_rate (b : Byte) : (txPush b s).rate = s.rate := by rw [txPush_eq]
@[simp] theorem txPush_txTail (b : Byte) : (txPush b s).txTail = s.txTail := by rw [txPush_eq]
@[simp] theorem txPush_convPending (b : Byte) : (txPush b s).convPending = s.convPending := by rw [txPush_eq]
@[simp] theorem txPush_hsPos (b : Byte) : (txPush b s).hsPos = s.hsPos := by rw [txPush_eq]
@[simp] theorem txPush_convLo (b : Byte) : (txPush b s).convLo = s.convLo := by rw [txPush_eq]
@[simp] theorem txPush_linkD2h (b : Byte) : (txPush b s).linkD2h = s.linkD2h := by rw [txPush_eq]
@[simp] theorem txPush_linkH2d (b : Byte) : (txPush b s).linkH2d = s.linkH2d := by rw [txPush_eq]
@[simp] theorem txPush_decPending (b : Byte) : (txPush b s).decPending = s.decPending := by rw [txPush_eq]
@[simp] theorem txPush_decHigh (b : Byte) : (txPush b s).decHigh = s.decHigh := by rw [txPush_eq]
@[simp] theorem txPush_hsMem (b : Byte) : (txPush b s).hsMem = s.hsMem := by rw [txPush_eq]
@[simp] theorem txPush_hsHead (b : Byte) : (txPush b s).hsHead = s.hsHead := by rw [txPush_eq]
@[simp] theorem txPush_hsCount (b : Byte) : (txPush b s).hsCount = s.hsCount := by rw [txPush_eq]
@[simp] theorem txPush_bpCount (b : Byte) : (txPush b s).bpCount = s.bpCount := by rw [txPush_eq]
@[simp] theorem txPush_dspBusy (b : Byte) : (txPush b s).dspBusy = s.dspBusy := by rw [txPush_eq]
@[simp] theorem txPush_win (b : Byte) : (txPush b s).win = s.win := by rw [txPush_eq]
@[simp] theorem txPush_passL (b : Byte) : (txPush b s).passL = s.passL := by rw [txPush_eq]
@[simp] theorem txPush_passFs (b : Byte) : (txPush b s).passFs = s.passFs := by rw [txPush_eq]
@[simp] theorem txPush_resValid (b : Byte) : (txPush b s).resValid = s.resValid := by rw [txPush_eq]
@[simp] theorem txPush_resSpec (b : Byte) : (txPush b s).resSpec = s.resSpec := by rw [txPush_eq]
@[simp] theorem txPush_resM (b : Byte) : (txPush b s).resM = s.resM := by rw [txPush_eq]
@[simp] theorem txPush_resFs (b : Byte) : (txPush b s).resFs = s.resFs := by rw [txPush_eq]
@[simp] theorem txPush_resStats (b : Byte) : (txPush b s).resStats = s.resStats := by rw [txPush_eq]
@[simp] theorem txPush_hActive (b : Byte) : (txPush b s).hActive = s.hActive := by rw [txPush_eq]
@[simp] theorem txPush_hRate (b : Byte) : (txPush b s).hRate = s.hRate := by rw [txPush_eq]
@[simp] theorem txPush_hConn (b : Byte) : (txPush b s).hConn = s.hConn := by rw [txPush_eq]
@[simp] theorem txPush_hsRx (b : Byte) : (txPush b s).hsRx = s.hsRx := by rw [txPush_eq]
@[simp] theorem txPush_grain (b : Byte) : (txPush b s).grain = s.grain := by rw [txPush_eq]
@[simp] theorem txPush_devEpoch (b : Byte) : (txPush b s).devEpoch = s.devEpoch := by rw [txPush_eq]
@[simp] theorem txPush_hostEpoch (b : Byte) : (txPush b s).hostEpoch = s.hostEpoch := by rw [txPush_eq]
@[simp] theorem txPush_emitted (b : Byte) : (txPush b s).emitted = s.emitted := by rw [txPush_eq]
@[simp] theorem txPush_trace (b : Byte) : (txPush b s).trace = s.trace := by rw [txPush_eq]
@[simp] theorem txPush_draws (b : Byte) : (txPush b s).draws = s.draws := by rw [txPush_eq]

/-! ### `txDrain` -/

/-- Everything about one drain: the oldest byte moves to the link (41_ring_buffers.md R144). -/
theorem txDrain_eq : txDrain s =
    { s with
      txTail := if txEmpty s then s.txTail else ringSucc s.cfg.txN s.txTail
      linkD2h := if txEmpty s then s.linkD2h else s.linkD2h ++ [s.txRead s.txDrainCell]
      txDrainEn := if txEmpty s || s.txHead == ringSucc s.cfg.txN s.txTail then false else s.txDrainEn
      emitted := if txEmpty s then s.emitted else .txByte (s.txRead s.txDrainCell) :: s.emitted } := by
  unfold txDrain; split
  · simp_all
  · simp_all [emit]

@[simp] theorem txDrain_cfg : (txDrain s).cfg = s.cfg := by rw [txDrain_eq]
@[simp] theorem txDrain_acq : (txDrain s).acq = s.acq := by rw [txDrain_eq]
@[simp] theorem txDrain_rate : (txDrain s).rate = s.rate := by rw [txDrain_eq]
@[simp] theorem txDrain_txMem : (txDrain s).txMem = s.txMem := by rw [txDrain_eq]
@[simp] theorem txDrain_txHead : (txDrain s).txHead = s.txHead := by rw [txDrain_eq]
@[simp] theorem txDrain_txFault : (txDrain s).txFault = s.txFault := by rw [txDrain_eq]
@[simp] theorem txDrain_faultInd : (txDrain s).faultInd = s.faultInd := by rw [txDrain_eq]
@[simp] theorem txDrain_convPending : (txDrain s).convPending = s.convPending := by rw [txDrain_eq]
@[simp] theorem txDrain_hsPos : (txDrain s).hsPos = s.hsPos := by rw [txDrain_eq]
@[simp] theorem txDrain_convLo : (txDrain s).convLo = s.convLo := by rw [txDrain_eq]
@[simp] theorem txDrain_linkH2d : (txDrain s).linkH2d = s.linkH2d := by rw [txDrain_eq]
@[simp] theorem txDrain_decPending : (txDrain s).decPending = s.decPending := by rw [txDrain_eq]
@[simp] theorem txDrain_decHigh : (txDrain s).decHigh = s.decHigh := by rw [txDrain_eq]
@[simp] theorem txDrain_hsMem : (txDrain s).hsMem = s.hsMem := by rw [txDrain_eq]
@[simp] theorem txDrain_hsHead : (txDrain s).hsHead = s.hsHead := by rw [txDrain_eq]
@[simp] theorem txDrain_hsCount : (txDrain s).hsCount = s.hsCount := by rw [txDrain_eq]
@[simp] theorem txDrain_bpCount : (txDrain s).bpCount = s.bpCount := by rw [txDrain_eq]
@[simp] theorem txDrain_dspBusy : (txDrain s).dspBusy = s.dspBusy := by rw [txDrain_eq]
@[simp] theorem txDrain_win : (txDrain s).win = s.win := by rw [txDrain_eq]
@[simp] theorem txDrain_passL : (txDrain s).passL = s.passL := by rw [txDrain_eq]
@[simp] theorem txDrain_passFs : (txDrain s).passFs = s.passFs := by rw [txDrain_eq]
@[simp] theorem txDrain_resValid : (txDrain s).resValid = s.resValid := by rw [txDrain_eq]
@[simp] theorem txDrain_resSpec : (txDrain s).resSpec = s.resSpec := by rw [txDrain_eq]
@[simp] theorem txDrain_resM : (txDrain s).resM = s.resM := by rw [txDrain_eq]
@[simp] theorem txDrain_resFs : (txDrain s).resFs = s.resFs := by rw [txDrain_eq]
@[simp] theorem txDrain_resStats : (txDrain s).resStats = s.resStats := by rw [txDrain_eq]
@[simp] theorem txDrain_hActive : (txDrain s).hActive = s.hActive := by rw [txDrain_eq]
@[simp] theorem txDrain_hRate : (txDrain s).hRate = s.hRate := by rw [txDrain_eq]
@[simp] theorem txDrain_hConn : (txDrain s).hConn = s.hConn := by rw [txDrain_eq]
@[simp] theorem txDrain_hsRx : (txDrain s).hsRx = s.hsRx := by rw [txDrain_eq]
@[simp] theorem txDrain_grain : (txDrain s).grain = s.grain := by rw [txDrain_eq]
@[simp] theorem txDrain_devEpoch : (txDrain s).devEpoch = s.devEpoch := by rw [txDrain_eq]
@[simp] theorem txDrain_hostEpoch : (txDrain s).hostEpoch = s.hostEpoch := by rw [txDrain_eq]
@[simp] theorem txDrain_raised : (txDrain s).raised = s.raised := by rw [txDrain_eq]
@[simp] theorem txDrain_trace : (txDrain s).trace = s.trace := by rw [txDrain_eq]
@[simp] theorem txDrain_draws : (txDrain s).draws = s.draws := by rw [txDrain_eq]

/-! ### `bpReq` -/

/-- Everything about one request: accepted, or dropped (43_backpressure.md R193, R194). -/
theorem bpReq_eq : bpReq s =
    { s with
      passL := if s.dspBusy then s.passL else min s.cfg.w s.hsCount
      win := if s.dspBusy then s.win else memWriteFrom s.win 0 (readRecent s (min s.cfg.w s.hsCount))
      passFs := if s.dspBusy then s.passFs else s.hRate
      dspBusy := true } := by
  unfold bpReq
  by_cases h : s.dspBusy = true
  · simp only [h, if_true]
    rw [← h]
  · simp [h, bpAccept]

@[simp] theorem bpReq_cfg : (bpReq s).cfg = s.cfg := by rw [bpReq_eq]
@[simp] theorem bpReq_acq : (bpReq s).acq = s.acq := by rw [bpReq_eq]
@[simp] theorem bpReq_rate : (bpReq s).rate = s.rate := by rw [bpReq_eq]
@[simp] theorem bpReq_txMem : (bpReq s).txMem = s.txMem := by rw [bpReq_eq]
@[simp] theorem bpReq_txHead : (bpReq s).txHead = s.txHead := by rw [bpReq_eq]
@[simp] theorem bpReq_txTail : (bpReq s).txTail = s.txTail := by rw [bpReq_eq]
@[simp] theorem bpReq_txDrainEn : (bpReq s).txDrainEn = s.txDrainEn := by rw [bpReq_eq]
@[simp] theorem bpReq_txFault : (bpReq s).txFault = s.txFault := by rw [bpReq_eq]
@[simp] theorem bpReq_faultInd : (bpReq s).faultInd = s.faultInd := by rw [bpReq_eq]
@[simp] theorem bpReq_convPending : (bpReq s).convPending = s.convPending := by rw [bpReq_eq]
@[simp] theorem bpReq_hsPos : (bpReq s).hsPos = s.hsPos := by rw [bpReq_eq]
@[simp] theorem bpReq_convLo : (bpReq s).convLo = s.convLo := by rw [bpReq_eq]
@[simp] theorem bpReq_linkD2h : (bpReq s).linkD2h = s.linkD2h := by rw [bpReq_eq]
@[simp] theorem bpReq_linkH2d : (bpReq s).linkH2d = s.linkH2d := by rw [bpReq_eq]
@[simp] theorem bpReq_decPending : (bpReq s).decPending = s.decPending := by rw [bpReq_eq]
@[simp] theorem bpReq_decHigh : (bpReq s).decHigh = s.decHigh := by rw [bpReq_eq]
@[simp] theorem bpReq_hsMem : (bpReq s).hsMem = s.hsMem := by rw [bpReq_eq]
@[simp] theorem bpReq_hsHead : (bpReq s).hsHead = s.hsHead := by rw [bpReq_eq]
@[simp] theorem bpReq_hsCount : (bpReq s).hsCount = s.hsCount := by rw [bpReq_eq]
@[simp] theorem bpReq_bpCount : (bpReq s).bpCount = s.bpCount := by rw [bpReq_eq]
@[simp] theorem bpReq_resValid : (bpReq s).resValid = s.resValid := by rw [bpReq_eq]
@[simp] theorem bpReq_resSpec : (bpReq s).resSpec = s.resSpec := by rw [bpReq_eq]
@[simp] theorem bpReq_resM : (bpReq s).resM = s.resM := by rw [bpReq_eq]
@[simp] theorem bpReq_resFs : (bpReq s).resFs = s.resFs := by rw [bpReq_eq]
@[simp] theorem bpReq_resStats : (bpReq s).resStats = s.resStats := by rw [bpReq_eq]
@[simp] theorem bpReq_hActive : (bpReq s).hActive = s.hActive := by rw [bpReq_eq]
@[simp] theorem bpReq_hRate : (bpReq s).hRate = s.hRate := by rw [bpReq_eq]
@[simp] theorem bpReq_hConn : (bpReq s).hConn = s.hConn := by rw [bpReq_eq]
@[simp] theorem bpReq_hsRx : (bpReq s).hsRx = s.hsRx := by rw [bpReq_eq]
@[simp] theorem bpReq_grain : (bpReq s).grain = s.grain := by rw [bpReq_eq]
@[simp] theorem bpReq_devEpoch : (bpReq s).devEpoch = s.devEpoch := by rw [bpReq_eq]
@[simp] theorem bpReq_hostEpoch : (bpReq s).hostEpoch = s.hostEpoch := by rw [bpReq_eq]
@[simp] theorem bpReq_raised : (bpReq s).raised = s.raised := by rw [bpReq_eq]
@[simp] theorem bpReq_emitted : (bpReq s).emitted = s.emitted := by rw [bpReq_eq]
@[simp] theorem bpReq_trace : (bpReq s).trace = s.trace := by rw [bpReq_eq]
@[simp] theorem bpReq_draws : (bpReq s).draws = s.draws := by rw [bpReq_eq]

/-! ### `bpCount` -/

/-- Everything about one count (43_backpressure.md R191). -/
theorem bpCount_eq : bpCount s =
    { s with
      bpCount := if thresholdHit s then 0 else s.bpCount + 1
      passL := if bpStarts s then min s.cfg.w s.hsCount else s.passL
      win := if bpStarts s then memWriteFrom s.win 0 (readRecent s (min s.cfg.w s.hsCount)) else s.win
      passFs := if bpStarts s then s.hRate else s.passFs
      dspBusy := s.dspBusy || thresholdHit s } := by
  unfold bpCount bpReq
  cases h : thresholdHit s <;> cases h2 : s.dspBusy <;> simp_all [bpStarts, bpAccept, readRecent, State.hsRead, State.recentCell]

@[simp] theorem bpCount_cfg : (bpCount s).cfg = s.cfg := by rw [bpCount_eq]
@[simp] theorem bpCount_acq : (bpCount s).acq = s.acq := by rw [bpCount_eq]
@[simp] theorem bpCount_rate : (bpCount s).rate = s.rate := by rw [bpCount_eq]
@[simp] theorem bpCount_txMem : (bpCount s).txMem = s.txMem := by rw [bpCount_eq]
@[simp] theorem bpCount_txHead : (bpCount s).txHead = s.txHead := by rw [bpCount_eq]
@[simp] theorem bpCount_txTail : (bpCount s).txTail = s.txTail := by rw [bpCount_eq]
@[simp] theorem bpCount_txDrainEn : (bpCount s).txDrainEn = s.txDrainEn := by rw [bpCount_eq]
@[simp] theorem bpCount_txFault : (bpCount s).txFault = s.txFault := by rw [bpCount_eq]
@[simp] theorem bpCount_faultInd : (bpCount s).faultInd = s.faultInd := by rw [bpCount_eq]
@[simp] theorem bpCount_convPending : (bpCount s).convPending = s.convPending := by rw [bpCount_eq]
@[simp] theorem bpCount_hsPos : (bpCount s).hsPos = s.hsPos := by rw [bpCount_eq]
@[simp] theorem bpCount_convLo : (bpCount s).convLo = s.convLo := by rw [bpCount_eq]
@[simp] theorem bpCount_linkD2h : (bpCount s).linkD2h = s.linkD2h := by rw [bpCount_eq]
@[simp] theorem bpCount_linkH2d : (bpCount s).linkH2d = s.linkH2d := by rw [bpCount_eq]
@[simp] theorem bpCount_decPending : (bpCount s).decPending = s.decPending := by rw [bpCount_eq]
@[simp] theorem bpCount_decHigh : (bpCount s).decHigh = s.decHigh := by rw [bpCount_eq]
@[simp] theorem bpCount_hsMem : (bpCount s).hsMem = s.hsMem := by rw [bpCount_eq]
@[simp] theorem bpCount_hsHead : (bpCount s).hsHead = s.hsHead := by rw [bpCount_eq]
@[simp] theorem bpCount_hsCount : (bpCount s).hsCount = s.hsCount := by rw [bpCount_eq]
@[simp] theorem bpCount_resValid : (bpCount s).resValid = s.resValid := by rw [bpCount_eq]
@[simp] theorem bpCount_resSpec : (bpCount s).resSpec = s.resSpec := by rw [bpCount_eq]
@[simp] theorem bpCount_resM : (bpCount s).resM = s.resM := by rw [bpCount_eq]
@[simp] theorem bpCount_resFs : (bpCount s).resFs = s.resFs := by rw [bpCount_eq]
@[simp] theorem bpCount_resStats : (bpCount s).resStats = s.resStats := by rw [bpCount_eq]
@[simp] theorem bpCount_hActive : (bpCount s).hActive = s.hActive := by rw [bpCount_eq]
@[simp] theorem bpCount_hRate : (bpCount s).hRate = s.hRate := by rw [bpCount_eq]
@[simp] theorem bpCount_hConn : (bpCount s).hConn = s.hConn := by rw [bpCount_eq]
@[simp] theorem bpCount_hsRx : (bpCount s).hsRx = s.hsRx := by rw [bpCount_eq]
@[simp] theorem bpCount_grain : (bpCount s).grain = s.grain := by rw [bpCount_eq]
@[simp] theorem bpCount_devEpoch : (bpCount s).devEpoch = s.devEpoch := by rw [bpCount_eq]
@[simp] theorem bpCount_hostEpoch : (bpCount s).hostEpoch = s.hostEpoch := by rw [bpCount_eq]
@[simp] theorem bpCount_raised : (bpCount s).raised = s.raised := by rw [bpCount_eq]
@[simp] theorem bpCount_emitted : (bpCount s).emitted = s.emitted := by rw [bpCount_eq]
@[simp] theorem bpCount_trace : (bpCount s).trace = s.trace := by rw [bpCount_eq]
@[simp] theorem bpCount_draws : (bpCount s).draws = s.draws := by rw [bpCount_eq]

/-! ### `txPushAll` and `readRecent` -/

@[simp] theorem txPushAll_nil : txPushAll [] s = s := rfl
@[simp] theorem txPushAll_cons (b : Byte) (bs : List Byte) : txPushAll (b :: bs) s = txPushAll bs (txPush b s) := rfl

/-- Everything about a run of pushes but the ring itself: only the ring's registers and the record of faults change. -/
theorem txPushAll_eq (bs : List Byte) : txPushAll bs s =
    { s with
      txMem := (txPushAll bs s).txMem
      txHead := (txPushAll bs s).txHead
      txDrainEn := (txPushAll bs s).txDrainEn
      txFault := (txPushAll bs s).txFault
      faultInd := (txPushAll bs s).faultInd
      raised := (txPushAll bs s).raised } := by
  induction bs generalizing s with
  | nil => rfl
  | cons b bs ih =>
    rw [txPushAll_cons, ih (txPush b s)]
    simp

@[simp] theorem readRecent_length (l : Nat) : (readRecent s l).length = l := by simp [readRecent]

/-- The `j`-th Sample read is the cell `(hs_head − l + j) mod HS_N` (41_ring_buffers.md R147). -/
theorem readRecent_getElem (l j : Nat) (h : j < (readRecent s l).length) :
    (readRecent s l)[j] = s.hsRead (s.recentCell l j) := by simp [readRecent]

end Sys2Proof.Machine
end

