-- ==== Sys2Proof/Laws/Host.lean ====
section
/-! SUPPORT. The named updates of the host half and of the resets: one lemma per field (true by rfl, for the simplifier). -/

namespace Sys2Proof.Machine

variable (s : State)

/-! ### `hostTx` -/

@[simp] theorem hostTx_cfg (b : Byte) : (hostTx b s).cfg = s.cfg := rfl
@[simp] theorem hostTx_acq (b : Byte) : (hostTx b s).acq = s.acq := rfl
@[simp] theorem hostTx_rate (b : Byte) : (hostTx b s).rate = s.rate := rfl
@[simp] theorem hostTx_txMem (b : Byte) : (hostTx b s).txMem = s.txMem := rfl
@[simp] theorem hostTx_txHead (b : Byte) : (hostTx b s).txHead = s.txHead := rfl
@[simp] theorem hostTx_txTail (b : Byte) : (hostTx b s).txTail = s.txTail := rfl
@[simp] theorem hostTx_txDrainEn (b : Byte) : (hostTx b s).txDrainEn = s.txDrainEn := rfl
@[simp] theorem hostTx_txFault (b : Byte) : (hostTx b s).txFault = s.txFault := rfl
@[simp] theorem hostTx_faultInd (b : Byte) : (hostTx b s).faultInd = s.faultInd := rfl
@[simp] theorem hostTx_convPending (b : Byte) : (hostTx b s).convPending = s.convPending := rfl
@[simp] theorem hostTx_hsPos (b : Byte) : (hostTx b s).hsPos = s.hsPos := rfl
@[simp] theorem hostTx_convLo (b : Byte) : (hostTx b s).convLo = s.convLo := rfl
@[simp] theorem hostTx_linkD2h (b : Byte) : (hostTx b s).linkD2h = s.linkD2h := rfl
@[simp] theorem hostTx_linkH2d (b : Byte) : (hostTx b s).linkH2d = s.linkH2d ++ [b] := rfl
@[simp] theorem hostTx_decPending (b : Byte) : (hostTx b s).decPending = s.decPending := rfl
@[simp] theorem hostTx_decHigh (b : Byte) : (hostTx b s).decHigh = s.decHigh := rfl
@[simp] theorem hostTx_hsMem (b : Byte) : (hostTx b s).hsMem = s.hsMem := rfl
@[simp] theorem hostTx_hsHead (b : Byte) : (hostTx b s).hsHead = s.hsHead := rfl
@[simp] theorem hostTx_hsCount (b : Byte) : (hostTx b s).hsCount = s.hsCount := rfl
@[simp] theorem hostTx_bpCount (b : Byte) : (hostTx b s).bpCount = s.bpCount := rfl
@[simp] theorem hostTx_dspBusy (b : Byte) : (hostTx b s).dspBusy = s.dspBusy := rfl
@[simp] theorem hostTx_win (b : Byte) : (hostTx b s).win = s.win := rfl
@[simp] theorem hostTx_passL (b : Byte) : (hostTx b s).passL = s.passL := rfl
@[simp] theorem hostTx_passFs (b : Byte) : (hostTx b s).passFs = s.passFs := rfl
@[simp] theorem hostTx_resValid (b : Byte) : (hostTx b s).resValid = s.resValid := rfl
@[simp] theorem hostTx_resSpec (b : Byte) : (hostTx b s).resSpec = s.resSpec := rfl
@[simp] theorem hostTx_resM (b : Byte) : (hostTx b s).resM = s.resM := rfl
@[simp] theorem hostTx_resFs (b : Byte) : (hostTx b s).resFs = s.resFs := rfl
@[simp] theorem hostTx_resStats (b : Byte) : (hostTx b s).resStats = s.resStats := rfl
@[simp] theorem hostTx_hActive (b : Byte) : (hostTx b s).hActive = s.hActive := rfl
@[simp] theorem hostTx_hRate (b : Byte) : (hostTx b s).hRate = s.hRate := rfl
@[simp] theorem hostTx_hConn (b : Byte) : (hostTx b s).hConn = s.hConn := rfl
@[simp] theorem hostTx_hsRx (b : Byte) : (hostTx b s).hsRx = s.hsRx := rfl
@[simp] theorem hostTx_grain (b : Byte) : (hostTx b s).grain = s.grain := rfl
@[simp] theorem hostTx_devEpoch (b : Byte) : (hostTx b s).devEpoch = s.devEpoch := rfl
@[simp] theorem hostTx_hostEpoch (b : Byte) : (hostTx b s).hostEpoch = s.hostEpoch := rfl
@[simp] theorem hostTx_raised (b : Byte) : (hostTx b s).raised = s.raised := rfl
@[simp] theorem hostTx_emitted (b : Byte) : (hostTx b s).emitted = .hostTxByte b :: s.emitted := rfl
@[simp] theorem hostTx_trace (b : Byte) : (hostTx b s).trace = s.trace := rfl
@[simp] theorem hostTx_draws (b : Byte) : (hostTx b s).draws = s.draws := rfl

/-! ### `publish` -/

@[simp] theorem publish_cfg (r : PassResult ℚ) : (publish r s).cfg = s.cfg := rfl
@[simp] theorem publish_acq (r : PassResult ℚ) : (publish r s).acq = s.acq := rfl
@[simp] theorem publish_rate (r : PassResult ℚ) : (publish r s).rate = s.rate := rfl
@[simp] theorem publish_txMem (r : PassResult ℚ) : (publish r s).txMem = s.txMem := rfl
@[simp] theorem publish_txHead (r : PassResult ℚ) : (publish r s).txHead = s.txHead := rfl
@[simp] theorem publish_txTail (r : PassResult ℚ) : (publish r s).txTail = s.txTail := rfl
@[simp] theorem publish_txDrainEn (r : PassResult ℚ) : (publish r s).txDrainEn = s.txDrainEn := rfl
@[simp] theorem publish_txFault (r : PassResult ℚ) : (publish r s).txFault = s.txFault := rfl
@[simp] theorem publish_faultInd (r : PassResult ℚ) : (publish r s).faultInd = s.faultInd := rfl
@[simp] theorem publish_convPending (r : PassResult ℚ) : (publish r s).convPending = s.convPending := rfl
@[simp] theorem publish_hsPos (r : PassResult ℚ) : (publish r s).hsPos = s.hsPos := rfl
@[simp] theorem publish_convLo (r : PassResult ℚ) : (publish r s).convLo = s.convLo := rfl
@[simp] theorem publish_linkD2h (r : PassResult ℚ) : (publish r s).linkD2h = s.linkD2h := rfl
@[simp] theorem publish_linkH2d (r : PassResult ℚ) : (publish r s).linkH2d = s.linkH2d := rfl
@[simp] theorem publish_decPending (r : PassResult ℚ) : (publish r s).decPending = s.decPending := rfl
@[simp] theorem publish_decHigh (r : PassResult ℚ) : (publish r s).decHigh = s.decHigh := rfl
@[simp] theorem publish_hsMem (r : PassResult ℚ) : (publish r s).hsMem = s.hsMem := rfl
@[simp] theorem publish_hsHead (r : PassResult ℚ) : (publish r s).hsHead = s.hsHead := rfl
@[simp] theorem publish_hsCount (r : PassResult ℚ) : (publish r s).hsCount = s.hsCount := rfl
@[simp] theorem publish_bpCount (r : PassResult ℚ) : (publish r s).bpCount = s.bpCount := rfl
@[simp] theorem publish_dspBusy (r : PassResult ℚ) : (publish r s).dspBusy = false := rfl
@[simp] theorem publish_win (r : PassResult ℚ) : (publish r s).win = s.win := rfl
@[simp] theorem publish_passL (r : PassResult ℚ) : (publish r s).passL = s.passL := rfl
@[simp] theorem publish_passFs (r : PassResult ℚ) : (publish r s).passFs = s.passFs := rfl
@[simp] theorem publish_resValid (r : PassResult ℚ) : (publish r s).resValid = true := rfl
@[simp] theorem publish_resSpec (r : PassResult ℚ) : (publish r s).resSpec = r.spec := rfl
@[simp] theorem publish_resM (r : PassResult ℚ) : (publish r s).resM = r.m := rfl
@[simp] theorem publish_resFs (r : PassResult ℚ) : (publish r s).resFs = s.passFs := rfl
@[simp] theorem publish_resStats (r : PassResult ℚ) : (publish r s).resStats = r.stats := rfl
@[simp] theorem publish_hActive (r : PassResult ℚ) : (publish r s).hActive = s.hActive := rfl
@[simp] theorem publish_hRate (r : PassResult ℚ) : (publish r s).hRate = s.hRate := rfl
@[simp] theorem publish_hConn (r : PassResult ℚ) : (publish r s).hConn = s.hConn := rfl
@[simp] theorem publish_hsRx (r : PassResult ℚ) : (publish r s).hsRx = s.hsRx := rfl
@[simp] theorem publish_grain (r : PassResult ℚ) : (publish r s).grain = s.grain := rfl
@[simp] theorem publish_devEpoch (r : PassResult ℚ) : (publish r s).devEpoch = s.devEpoch := rfl
@[simp] theorem publish_hostEpoch (r : PassResult ℚ) : (publish r s).hostEpoch = s.hostEpoch := rfl
@[simp] theorem publish_raised (r : PassResult ℚ) : (publish r s).raised = s.raised := rfl
@[simp] theorem publish_emitted (r : PassResult ℚ) : (publish r s).emitted = s.emitted := rfl
@[simp] theorem publish_trace (r : PassResult ℚ) : (publish r s).trace = s.trace := rfl
@[simp] theorem publish_draws (r : PassResult ℚ) : (publish r s).draws = s.draws := rfl

/-! ### `deviceReset` -/

@[simp] theorem deviceReset_cfg : (deviceReset s).cfg = s.cfg := rfl
@[simp] theorem deviceReset_acq : (deviceReset s).acq = .stopped := rfl
@[simp] theorem deviceReset_rate : (deviceReset s).rate = s.cfg.resetRate := rfl
@[simp] theorem deviceReset_txMem : (deviceReset s).txMem = [] := rfl
@[simp] theorem deviceReset_txHead : (deviceReset s).txHead = 0 := rfl
@[simp] theorem deviceReset_txTail : (deviceReset s).txTail = 0 := rfl
@[simp] theorem deviceReset_txDrainEn : (deviceReset s).txDrainEn = false := rfl
@[simp] theorem deviceReset_txFault : (deviceReset s).txFault = false := rfl
@[simp] theorem deviceReset_faultInd : (deviceReset s).faultInd = false := rfl
@[simp] theorem deviceReset_convPending : (deviceReset s).convPending = false := rfl
@[simp] theorem deviceReset_hsPos : (deviceReset s).hsPos = none := rfl
@[simp] theorem deviceReset_convLo : (deviceReset s).convLo = none := rfl
@[simp] theorem deviceReset_linkD2h : (deviceReset s).linkD2h = s.linkD2h := rfl
@[simp] theorem deviceReset_linkH2d : (deviceReset s).linkH2d = s.linkH2d := rfl
@[simp] theorem deviceReset_decPending : (deviceReset s).decPending = s.decPending := rfl
@[simp] theorem deviceReset_decHigh : (deviceReset s).decHigh = s.decHigh := rfl
@[simp] theorem deviceReset_hsMem : (deviceReset s).hsMem = s.hsMem := rfl
@[simp] theorem deviceReset_hsHead : (deviceReset s).hsHead = s.hsHead := rfl
@[simp] theorem deviceReset_hsCount : (deviceReset s).hsCount = s.hsCount := rfl
@[simp] theorem deviceReset_bpCount : (deviceReset s).bpCount = s.bpCount := rfl
@[simp] theorem deviceReset_dspBusy : (deviceReset s).dspBusy = s.dspBusy := rfl
@[simp] theorem deviceReset_win : (deviceReset s).win = s.win := rfl
@[simp] theorem deviceReset_passL : (deviceReset s).passL = s.passL := rfl
@[simp] theorem deviceReset_passFs : (deviceReset s).passFs = s.passFs := rfl
@[simp] theorem deviceReset_resValid : (deviceReset s).resValid = s.resValid := rfl
@[simp] theorem deviceReset_resSpec : (deviceReset s).resSpec = s.resSpec := rfl
@[simp] theorem deviceReset_resM : (deviceReset s).resM = s.resM := rfl
@[simp] theorem deviceReset_resFs : (deviceReset s).resFs = s.resFs := rfl
@[simp] theorem deviceReset_resStats : (deviceReset s).resStats = s.resStats := rfl
@[simp] theorem deviceReset_hActive : (deviceReset s).hActive = s.hActive := rfl
@[simp] theorem deviceReset_hRate : (deviceReset s).hRate = s.hRate := rfl
@[simp] theorem deviceReset_hConn : (deviceReset s).hConn = s.hConn := rfl
@[simp] theorem deviceReset_hsRx : (deviceReset s).hsRx = s.hsRx := rfl
@[simp] theorem deviceReset_grain : (deviceReset s).grain = s.grain := rfl
@[simp] theorem deviceReset_devEpoch : (deviceReset s).devEpoch = s.devEpoch + 1 := rfl
@[simp] theorem deviceReset_hostEpoch : (deviceReset s).hostEpoch = s.hostEpoch := rfl
@[simp] theorem deviceReset_raised : (deviceReset s).raised = s.raised := rfl
@[simp] theorem deviceReset_emitted : (deviceReset s).emitted = s.emitted := rfl
@[simp] theorem deviceReset_trace : (deviceReset s).trace = s.trace := rfl
@[simp] theorem deviceReset_draws : (deviceReset s).draws = s.draws := rfl

/-! ### `hostHalfReset` -/

@[simp] theorem hostHalfReset_cfg : (hostHalfReset s).cfg = s.cfg := rfl
@[simp] theorem hostHalfReset_acq : (hostHalfReset s).acq = s.acq := rfl
@[simp] theorem hostHalfReset_rate : (hostHalfReset s).rate = s.rate := rfl
@[simp] theorem hostHalfReset_txMem : (hostHalfReset s).txMem = s.txMem := rfl
@[simp] theorem hostHalfReset_txHead : (hostHalfReset s).txHead = s.txHead := rfl
@[simp] theorem hostHalfReset_txTail : (hostHalfReset s).txTail = s.txTail := rfl
@[simp] theorem hostHalfReset_txDrainEn : (hostHalfReset s).txDrainEn = s.txDrainEn := rfl
@[simp] theorem hostHalfReset_txFault : (hostHalfReset s).txFault = s.txFault := rfl
@[simp] theorem hostHalfReset_faultInd : (hostHalfReset s).faultInd = s.faultInd := rfl
@[simp] theorem hostHalfReset_convPending : (hostHalfReset s).convPending = s.convPending := rfl
@[simp] theorem hostHalfReset_hsPos : (hostHalfReset s).hsPos = s.hsPos := rfl
@[simp] theorem hostHalfReset_convLo : (hostHalfReset s).convLo = s.convLo := rfl
@[simp] theorem hostHalfReset_linkD2h : (hostHalfReset s).linkD2h = s.linkD2h := rfl
@[simp] theorem hostHalfReset_linkH2d : (hostHalfReset s).linkH2d = s.linkH2d := rfl
@[simp] theorem hostHalfReset_decPending : (hostHalfReset s).decPending = false := rfl
@[simp] theorem hostHalfReset_decHigh : (hostHalfReset s).decHigh = Config.freeDecHigh (s.hostEpoch + 1) := rfl
@[simp] theorem hostHalfReset_hsMem : (hostHalfReset s).hsMem = [] := rfl
@[simp] theorem hostHalfReset_hsHead : (hostHalfReset s).hsHead = 0 := rfl
@[simp] theorem hostHalfReset_hsCount : (hostHalfReset s).hsCount = 0 := rfl
@[simp] theorem hostHalfReset_bpCount : (hostHalfReset s).bpCount = 0 := rfl
@[simp] theorem hostHalfReset_dspBusy : (hostHalfReset s).dspBusy = false := rfl
@[simp] theorem hostHalfReset_win : (hostHalfReset s).win = [] := rfl
@[simp] theorem hostHalfReset_passL : (hostHalfReset s).passL = Config.freePassL (s.hostEpoch + 1) := rfl
@[simp] theorem hostHalfReset_passFs : (hostHalfReset s).passFs = Config.freePassFs (s.hostEpoch + 1) := rfl
@[simp] theorem hostHalfReset_resValid : (hostHalfReset s).resValid = false := rfl
@[simp] theorem hostHalfReset_resSpec : (hostHalfReset s).resSpec = Config.freeResSpec (s.hostEpoch + 1) := rfl
@[simp] theorem hostHalfReset_resM : (hostHalfReset s).resM = Config.freeResM (s.hostEpoch + 1) := rfl
@[simp] theorem hostHalfReset_resFs : (hostHalfReset s).resFs = Config.freeResFs (s.hostEpoch + 1) := rfl
@[simp] theorem hostHalfReset_resStats : (hostHalfReset s).resStats = Config.freeResStats (s.hostEpoch + 1) := rfl
@[simp] theorem hostHalfReset_hActive : (hostHalfReset s).hActive = .stopped := rfl
@[simp] theorem hostHalfReset_hRate : (hostHalfReset s).hRate = s.cfg.resetRate := rfl
@[simp] theorem hostHalfReset_hConn : (hostHalfReset s).hConn = .disconnected := rfl
@[simp] theorem hostHalfReset_hsRx : (hostHalfReset s).hsRx = [] := rfl
@[simp] theorem hostHalfReset_grain : (hostHalfReset s).grain = s.grain := rfl
@[simp] theorem hostHalfReset_devEpoch : (hostHalfReset s).devEpoch = s.devEpoch := rfl
@[simp] theorem hostHalfReset_hostEpoch : (hostHalfReset s).hostEpoch = s.hostEpoch + 1 := rfl
@[simp] theorem hostHalfReset_raised : (hostHalfReset s).raised = s.raised := rfl
@[simp] theorem hostHalfReset_emitted : (hostHalfReset s).emitted = s.emitted := rfl
@[simp] theorem hostHalfReset_trace : (hostHalfReset s).trace = s.trace := rfl
@[simp] theorem hostHalfReset_draws : (hostHalfReset s).draws = s.draws := rfl

end Sys2Proof.Machine
end

