-- ==== Sys2Proof/Laws/Cases.lean ====
section
/-! SUPPORT. What an operation that calls others can do, as a list of cases: later proofs take the cases apart and never
unfold the operation. -/

namespace Sys2Proof.Machine

/-- An operation that completed was enabled, and its step was taken. -/
theorem perform_next {e : Event} {s t : State} (h : perform e s = .next t) :
    enabled e s = true ∧ take e s = .next t := by
  unfold perform at h
  split at h
  · exact ⟨‹_›, h⟩
  · cases h

theorem perform_of_enabled {e : Event} {s : State} (h : enabled e s = true) : perform e s = take e s := by
  simp [perform, h]

/-- A command byte sets the acquisition axis, or the rate axis, or pushes the response whole, or its first byte
(42_command_channel.md R160). -/
theorem opCmd_cases {b : Byte} {s t : State} (h : opCmd b s = .next t) :
    (∃ a r, t = { s with acq := a, rate := r }) ∨ t = txPushAll response s ∨
      t = pushResponseByte 0 (response.getD 0 0) s := by
  simp only [opCmd, decode, decodeCommand] at h
  split_ifs at h <;>
    simp only [exec, execCmdStart, execCmdStop, execCmdRate1, execCmdRate10, execCmdRate20, execCmdIgnore,
      execCmdHandshake] at h
  all_goals
    try
      simp only [Host.Outcome.next.injEq] at h
      subst h
      left
      first
        | exact ⟨.running, s.rate, rfl⟩
        | exact ⟨.stopped, s.rate, rfl⟩
        | exact ⟨s.acq, .r1, rfl⟩
        | exact ⟨s.acq, .r10, rfl⟩
        | exact ⟨s.acq, .r20, rfl⟩
        | exact ⟨s.acq, s.rate, rfl⟩
  right
  split at h <;> simp only [Host.Outcome.next.injEq] at h <;> simp [h.symm]

/-- Everything about one collected byte (42_command_channel.md R173 to R175). -/
theorem collectHandshake_eq (b : Byte) (s : State) : collectHandshake b s =
    { s with
      hsRx := s.hsRx ++ [b]
      hConn :=
        if (s.hsRx ++ [b]).length = 8 then (if s.hsRx ++ [b] = response then .connected else .failed) else s.hConn
      raised :=
        if (s.hsRx ++ [b]).length = 8 ∧ s.hsRx ++ [b] ≠ response then .protocolMismatch :: s.raised
        else s.raised } := by
  unfold collectHandshake hsReject hsAccept failClosed raiseFault
  generalize s.hsRx ++ [b] = rx
  generalize response = R
  by_cases h1 : rx.length = 8 <;> by_cases h2 : rx = R <;> simp [h1, h2] <;> simp_all

/-- A received byte is discarded, collected, latched or dropped by the decoder, or completes a Sample
(42_command_channel.md R172). -/
theorem opHostRx_cases {b : Byte} {s t : State} (h : opHostRx b s = .next t) :
    t = s ∨ (s.hConn = .handshaking ∧ t = collectHandshake b s) ∨
      (s.hConn = .connected ∧ ∃ d p, t = { s with decHigh := d, decPending := p }) ∨
      (s.hConn = .connected ∧
        ∃ l, t = bpCount (hsWrite (assemble s.decHigh l).toCell { s with decPending := false })) := by
  unfold opHostRx at h
  have hq : s.hConn = .disconnected ∨ s.hConn = .handshaking ∨ s.hConn = .connected ∨ s.hConn = .failed := by
    cases s.hConn <;> simp
  rcases hq with hc | hc | hc | hc <;> simp only [hc] at h
  · left; cases h; rfl
  · right; left; cases h; exact ⟨hc, rfl⟩
  · right; right
    simp only [decode, decodeData] at h
    by_cases h1 : b.getLsbD 7 = true
    · simp only [h1, if_true, exec, execDecHi] at h
      cases h; left; exact ⟨hc, _, _, rfl⟩
    · simp only [h1] at h
      by_cases h2 : s.decPending = true
      · simp only [h2, exec, execDecLo] at h
        cases h; right; exact ⟨hc, b.extractLsb' 0 7, rfl⟩
      · simp only [h2, exec, execDecDrop] at h
        cases h; left; exact ⟨hc, s.decHigh, s.decPending, rfl⟩
  · left; cases h; rfl

end Sys2Proof.Machine
end

