-- ==== Sys2Proof/Laws/PerInstr.lean ====
section
/-! SUPPORT. Statements made for each instruction: its byte matches its row of the machine-readable opcode table
(30_encoding.md R106). -/

namespace Sys2Proof.Laws.RowMatch

/-- The byte of the operation selects the operation's row: `b & mask = match` (30_encoding.md R106). -/
def Statement (i : Instr) : Prop := encodeByte i &&& i.tableRow.2 = i.tableRow.1

theorem cmdStart : Statement .cmdStart := rfl
theorem cmdStop : Statement .cmdStop := rfl
theorem cmdRate1 : Statement .cmdRate1 := rfl
theorem cmdRate10 : Statement .cmdRate10 := rfl
theorem cmdRate20 : Statement .cmdRate20 := rfl
theorem cmdHandshake : Statement .cmdHandshake := rfl
theorem cmdIgnore (op : Byte) : Statement (.cmdIgnore op) := by
  simp [Statement, Instr.tableRow]
theorem decHi (pad : BitVec 4) (h : BitVec 3) : Statement (.decHi pad h) := by
  revert pad h
  unfold Statement
  decide +kernel
theorem decLo (l : BitVec 7) : Statement (.decLo l) := by
  revert l
  unfold Statement
  decide +kernel
theorem decDrop (l : BitVec 7) : Statement (.decDrop l) := by
  revert l
  unfold Statement
  decide +kernel

end Sys2Proof.Laws.RowMatch
end

