-- ==== Sys2Proof/Laws/Ring.lean ====
section
/-! SUPPORT. Index arithmetic of the rings without `mod` (41_ring_buffers.md R149). -/

namespace Sys2Proof.Machine

theorem ringSucc_of_lt {n i : Nat} (h : i < n) : ringSucc n i = if i + 1 = n then 0 else i + 1 := by
  unfold ringSucc
  split
  · rename_i h
    rw [h, Nat.mod_self]
  · rw [Nat.mod_eq_of_lt (by omega)]

theorem ringSub_of_lt {n a b : Nat} (ha : a < n) (hb : b < n) :
    ringSub n a b = if b ≤ a then a - b else a + (n - b) := by
  unfold ringSub
  rw [Nat.mod_eq_of_lt hb]
  split
  · rw [show a + (n - b) = (a - b) + n by omega, Nat.add_mod_right, Nat.mod_eq_of_lt (by omega)]
  · rw [Nat.mod_eq_of_lt (by omega)]

theorem ringSub_capacity {n a : Nat} (ha : a < n) : ringSub n a n = a := by
  simp [ringSub, Nat.mod_eq_of_lt ha]

theorem ringSub_succ_of_lt {n a j : Nat} (ha : a < n) (hj : j < n) :
    ringSub n a (j + 1) = if j + 1 ≤ a then a - (j + 1) else a + n - (j + 1) := by
  by_cases h : j + 1 = n
  · rw [h, ringSub_capacity ha]
    split <;> omega
  · rw [ringSub_of_lt ha (by omega)]
    split <;> omega

theorem ringAdd_of_lt {n a b : Nat} (ha : a < n) (hb : b ≤ n) :
    (a + b) % n = if a + b < n then a + b else a + b - n := by
  split
  · rw [Nat.mod_eq_of_lt ‹_›]
  · rw [Nat.mod_eq_sub_mod (by omega), Nat.mod_eq_of_lt (by omega)]

end Sys2Proof.Machine
end

