-- ==== Sys2Proof/Tests/Slice0.lean ====
section
/-! SUPPORT. Tests: expected results are from spec/95_test_vectors.md and the examples of the rules. The second part gives,
for each statement with hypotheses, states and operands that meet them. -/

namespace Sys2Proof.Tests

open Sys2Proof.Machine Sys2Proof.Dsp

/-- `p` holds of the next state. -/
def after (o : Host.Outcome State Fault Refusal) (p : State → Bool) : Bool :=
  match o with
  | .next t => p t
  | .fault _ => false
  | .refused _ => false

/-- The operation has no step. -/
def stops (o : Host.Outcome State Fault Refusal) : Bool :=
  match o with
  | .next _ => false
  | .fault .notEnabled => true
  | .refused _ => false

/-- The reset state with rings of 4 cells (95_test_vectors.md T7, T10). -/
def ring4 : State := { State.reset with cfg := { Params.testInstance with txN := 4, hsN := 4 } }

/-- `ring4` with three bytes waiting: full. -/
def full4 : State :=
  { ring4 with txMem := [(0, 0x11#8), (1, 0x22#8), (2, 0x33#8)], txHead := 3, txDrainEn := true }

/-- A running device and a connected host with one Sample received and a pass in flight over it. -/
def busy : State :=
  { State.reset with
    acq := .running
    hConn := .connected
    hsMem := [(0, 682#16)]
    hsHead := 1
    hsCount := 1
    dspBusy := true
    win := [(0, 682#16)]
    passL := 1 }

/-! ## Well-formedness -/

theorem test_ignore_start_ill_formed : (Instr.cmdIgnore 0x01#8).wellFormed = false := by decide
theorem test_ignore_stop_ill_formed : (Instr.cmdIgnore 0x02#8).wellFormed = false := by decide
theorem test_ignore_rate1_ill_formed : (Instr.cmdIgnore 0x10#8).wellFormed = false := by decide
theorem test_ignore_rate10_ill_formed : (Instr.cmdIgnore 0x11#8).wellFormed = false := by decide
theorem test_ignore_rate20_ill_formed : (Instr.cmdIgnore 0x12#8).wellFormed = false := by decide
theorem test_ignore_handshake_ill_formed : (Instr.cmdIgnore 0x3F#8).wellFormed = false := by decide
theorem test_ignore_13_well_formed : (Instr.cmdIgnore 0x13#8).wellFormed = true := by decide

/-! ## Decoding: words written out from 30_encoding.md R92 and R98 -/

theorem test_decode_start : decode .cmd [0b00000001#8] = .ok (.cmdStart, []) := by decide
theorem test_decode_stop : decode .cmd [0b00000010#8] = .ok (.cmdStop, []) := by decide
theorem test_decode_rate1 : decode .cmd [0b00010000#8] = .ok (.cmdRate1, []) := by decide
theorem test_decode_rate10 : decode .cmd [0b00010001#8] = .ok (.cmdRate10, []) := by decide
theorem test_decode_rate20 : decode .cmd [0b00010010#8] = .ok (.cmdRate20, []) := by decide
theorem test_decode_handshake : decode .cmd [0b00111111#8] = .ok (.cmdHandshake, []) := by decide
theorem test_decode_ignore : decode .cmd [0b10000001#8] = .ok (.cmdIgnore 0x81#8, []) := by decide
theorem test_decode_hi : decode (.data false) [0b11111010#8] = .ok (.decHi 0b1111#4 0b010#3, []) := by decide
theorem test_decode_lo : decode (.data true) [0b01100100#8] = .ok (.decLo 100#7, []) := by decide
theorem test_decode_drop : decode (.data false) [0b01100100#8] = .ok (.decDrop 100#7, []) := by decide
theorem test_decode_no_byte : decode .cmd [] = .error .noByte := by decide
theorem test_table_word_start : decodeTableWord 8 0x01 = some .cmdStart := by decide
theorem test_table_word_hi : decodeTableWord 8 0x85 = some (.decHi 0#4 5#3) := by decide
theorem test_fetch_word_start : after (step (State.reset.withFetchWord 8 0x01)) (fun t => t.acq == .running) = true := by
  decide
theorem test_fetch_word_hi :
    after (step (State.reset.withFetchWord 8 0x85)) (fun t => t.decPending && t.decHigh == 5#3) = true := by decide

/-! ## The instructions (T11, T12, the examples of 40_frame_codec.md R123 to R125) -/

theorem test_start : after (exec .cmdStart State.reset) (fun t => t.acq == .running) = true := by decide
theorem test_stop : after (exec .cmdStop busy) (fun t => t.acq == .stopped && t.rate == .r1) = true := by decide
theorem test_rate1 : after (exec .cmdRate1 { busy with rate := .r20 }) (fun t => t.rate == .r1) = true := by decide
theorem test_rate10 : after (exec .cmdRate10 busy) (fun t => t.rate == .r10 && t.acq == .running) = true := by decide
theorem test_rate20 : after (exec .cmdRate20 busy) (fun t => t.rate == .r20 && t.acq == .running) = true := by decide
theorem test_ignore : after (exec (.cmdIgnore 0x13#8) busy) (fun t => t.rate == .r1 && t.acq == .running) = true := by
  decide
theorem test_handshake_fits : after (exec .cmdHandshake State.reset) (fun t =>
    t.txHead == 8 && !t.txFault &&
      t.txMem.map Prod.snd == [0x4F#8, 0x53#8, 0x43#8, 0x5F#8, 0x56#8, 0x31#8, 0x0A#8, 0x6D#8]) = true := by decide
theorem test_handshake_loses_checksum :
    after (exec .cmdHandshake { State.reset with cfg := { Params.testInstance with txN := 8 } }) (fun t =>
      t.txHead == 7 && t.txFault && t.faultInd && t.raised == [.txOverflow]) = true := by decide
theorem test_dec_hi : after (exec (.decHi 0b1111#4 2#3) State.reset) (fun t => t.decPending && t.decHigh == 2#3) = true := by
  decide
theorem test_dec_lo : after (exec (.decLo 0x2A#7) { State.reset with decPending := true, decHigh := 5#3 }) (fun t =>
    t.hsRead 0 == 682#16 && t.hsHead == 1 && t.hsCount == 1 && t.bpCount == 1 && !t.decPending && !t.dspBusy) = true := by
  decide
theorem test_dec_lo_starts_pass :
    after (exec (.decLo 0x2A#7) { busy with decPending := true, decHigh := 5#3, bpCount := 3, dspBusy := false })
      (fun t => t.dspBusy && t.bpCount == 0 && t.passL == 2 && t.window == [682#16, 682#16]) = true := by decide
theorem test_dec_drop : after (exec (.decDrop 0x2A#7) State.reset) (fun t => !t.decPending && t.hsCount == 0) = true := by
  decide

/-! ## Operations (T1, T7 to T10, T15, T16) -/

theorem test_enc : enc 682#16 = (0x85#8, 0x2A#8) ∧ enc 1023#16 = (0x87#8, 0x7F#8) ∧ enc 0xFFFF#16 = (0x87#8, 0x7F#8) := by
  decide
theorem test_checksum : idChk = 0x6D#8 := by decide
theorem test_push_full : (txPush 0x44#8 full4).txHead = 3 ∧ (txPush 0x44#8 full4).txFault = true ∧
    (txPush 0x44#8 full4).txMem = full4.txMem := by decide
theorem test_drain : (txDrain full4).txTail = 1 ∧ (txDrain full4).linkD2h = [0x11#8] ∧ (txDrain full4).txDrainEn = true := by
  decide
theorem test_conv_done_one_free : after (perform (.convDone 200#10)
    { ring4 with txMem := [(0, 0x11#8), (1, 0x22#8)], txHead := 2, txDrainEn := true, convPending := true })
      (fun t => t.txHead == 3 && t.txRead 2 == 0x81#8 && t.txFault && !t.convPending) = true := by decide
theorem test_toggle_twice :
    let s := { full4 with cfg := { full4.cfg with faultIndMode := .toggle } }
    (txPush 0#8 s).faultInd = true ∧ (txPush 0#8 (txPush 0#8 s)).faultInd = false := by decide
theorem test_read_recent_wraps : readRecent (hsRun [10#16, 20#16, 30#16, 40#16, 50#16] ring4) 3 = [30#16, 40#16, 50#16] ∧
    readRecent (hsRun [10#16, 20#16, 30#16, 40#16, 50#16] ring4) 4 = [20#16, 30#16, 40#16, 50#16] := by decide
theorem test_threshold_default : defaultThresh RealParams.some .r1 = 41 := by
  simp only [defaultThresh, Rate.hz, RealParams.some]
  norm_num
theorem test_threshold_at_least_one :
    defaultThresh { RealParams.some with refreshHz := 30000, refreshHz_pos := by norm_num } .r10 = 1 := by
  simp only [defaultThresh, Rate.hz]
  norm_num
theorem test_accept : after (perform (.hostRx 0x6D#8)
    { State.reset with hConn := .handshaking, hsRx := [0x4F#8, 0x53#8, 0x43#8, 0x5F#8, 0x56#8, 0x31#8, 0x0A#8] })
      (fun t => t.hConn == .connected) = true := by decide
theorem test_reject : after (perform (.hostRx 0x6C#8)
    { State.reset with hConn := .handshaking, hsRx := [0x4F#8, 0x53#8, 0x43#8, 0x5F#8, 0x56#8, 0x31#8, 0x0A#8] })
      (fun t => t.hConn == .failed && t.raised == [.protocolMismatch]) = true := by decide

/-! ## The DSP pipeline (T17, T19, T20) -/

theorem test_volts : volts (5 : ℚ) 1024 [0, 256, 512, 1023] = [0, 1.25, 2.5, 4.9951171875] := by
  norm_num [volts]
theorem test_remove_dc : removeDc ([1.25, 3.75, 1.25, 3.75] : List ℚ) = [-1.25, 1.25, -1.25, 1.25] := by
  norm_num [removeDc, mean]
theorem test_bit_reversal : (List.range 8).map (bitRev 3) = [0, 4, 2, 6, 1, 5, 3, 7] := by decide
theorem test_load : (List.range 8).map (bitRevLoad 3 fun n => if n < 4 then n + 1 else 0) = [1, 0, 3, 0, 2, 0, 4, 0] := by
  decide
theorem test_butterfly : bfly (4 : ℤ) 6 1 = (10, -2) := by decide
theorem test_size_two_transform : (List.range 2).map (fft (fun _ _ => (1 : ℤ)) 1 fun n => if n = 0 then 3 else -1) = [2, 4] := by
  decide

/-! ## Witnesses: states and operands that meet a statement's hypotheses, one theorem a statement -/

theorem txOk_reset : TxOk State.reset := ⟨by decide, by decide, by decide, by decide⟩
theorem txOk_full4 : TxOk full4 := ⟨by decide, by decide, by decide, by decide⟩
theorem hsOk_reset : HsOk State.reset := ⟨by decide, by decide, by decide, by decide, by simp [State.reset]⟩
theorem hsOk_busy : HsOk busy := by
  refine ⟨by decide, by decide, by decide, by decide, fun j hj => ⟨682#16, ?_, by decide⟩⟩
  have h : j = 0 := by simpa [busy, State.reset] using hj
  subst h
  decide
theorem passOk_busy : PassOk busy := by
  refine ⟨by decide, by decide, fun j hj => ⟨682#16, ?_, by decide⟩⟩
  have h : j = 0 := by simpa [busy] using hj
  subst h
  decide
theorem wf_testInstance : Params.testInstance.Wf := by decide

theorem inv_busy : StateInv busy where
  cfg := wf_testInstance
  txMem := by decide
  hsMem := by decide
  win := by decide
  tx := ⟨by decide, by decide, by decide, by decide⟩
  ind := by decide
  hs := hsOk_busy
  pass := fun _ => passOk_busy
  rx := by decide
  hsPos := by simp [busy, State.reset]
  convLo := by simp [busy, State.reset]
  res := by simp [busy, State.reset]

theorem witness_DecodeOfEncode :
    ((Instr.decHi 0b1111#4 7#3).wellFormed = true ∧ (Instr.decHi 0b1111#4 7#3).readIn (.data true) = true) ∧
    ((Instr.cmdIgnore 0x13#8).wellFormed = true ∧ (Instr.cmdIgnore 0x13#8).readIn .cmd = true) := by decide
theorem witness_CmdStartAndStopSetAcquisition : cmdReady State.reset = true := by decide
theorem witness_CmdRatesSelect : cmdReady busy = true := by decide
theorem witness_CmdIgnoreChangesNothing : 0x13#8 ∉ [0x01#8, 0x02#8, 0x10#8, 0x11#8, 0x12#8, 0x3F#8] ∧
    cmdReady State.reset = true := by decide
theorem witness_CmdHandshakePushesResponse :
    (TxOk State.reset ∧ State.reset.grain = .whole) ∧ (TxOk full4 ∧ full4.grain = .whole) :=
  ⟨⟨txOk_reset, rfl⟩, txOk_full4, rfl⟩
theorem witness_CmdHandshakeSubSteps :
    ({ State.reset with grain := .subSteps } : State).grain = .subSteps ∧
    ({ State.reset with hsPos := some 7 } : State).convLo = none ∧
    [0x4F#8, 0x53#8, 0x43#8, 0x5F#8, 0x56#8, 0x31#8, 0x0A#8, 0x6D#8][7]? = some 0x6D#8 := by decide
theorem witness_HandshakeSubStepsMakeTheWhole : State.reset.hsPos = none ∧ State.reset.convLo = none := by decide
theorem witness_CommandsTouchOnlyTheirAxes : (Instr.cmdIgnore 0#8).isCommand = true ∧ Instr.cmdHandshake.isCommand = true ∧
    full4.txHead ≠ full4.txTail ∧ (txPush 0#8 full4).txFault = true := by decide
theorem witness_TickStartsConversion :
    (busy.acq = .running ∧ busy.convLo = none) ∧ State.reset.acq = .stopped := by decide
theorem witness_PushStoresOrDrops : (full4.txHead + 1) % full4.cfg.txN = full4.txTail ∧
    (ring4.txHead + 1) % ring4.cfg.txN ≠ ring4.txTail := by decide
theorem witness_DrainSendsOldestByte : ring4.txDrainEn = false ∧
    (let s : State := { ring4 with txDrainEn := true }; s.txDrainEn = true ∧ s.txHead = s.txTail) ∧
    full4.txDrainEn = true ∧ full4.txHead ≠ full4.txTail := by decide
theorem witness_TxRingIsAQueue : TxOk full4 ∧ txAccepted [none, some 0x55#8] full4 = [0x55#8] ∧
    txRejected [some 0x44#8] full4 = [0x44#8] := ⟨txOk_full4, by decide, by decide⟩
theorem witness_FullMeansAllButOneLive : (TxOk full4 ∧ txFull full4 = true) ∧ (TxOk State.reset ∧ txEmpty State.reset = true) :=
  ⟨⟨txOk_full4, by decide⟩, txOk_reset, by decide⟩
theorem witness_ConvDonePushesFrame : (let s : State := { busy with convPending := true };
    s.convPending = true ∧ s.convLo = none ∧ s.grain = .whole) ∧ busy.convPending = false := by decide
theorem witness_ConvDoneSubSteps : (let s : State := { busy with convPending := true };
    s.convPending = true ∧ s.convLo = none) := by decide
theorem witness_InterleavingBetweenSubSteps :
    (let s : State := { busy with convLo := some 0x2A#8 };
      s.convLo = some 0x2A#8 ∧ Event.ofDevice (.txPush 0x2A#8) = true ∧ enabled (.txPush 0x2A#8) s = true) ∧
    (let s : State := { busy with hsPos := some 1 }; s.hsPos = some 1 ∧ s.convLo = none) := by decide
theorem witness_DecLoDelivers :
    (let s : State := { busy with decPending := true, bpCount := 3, dspBusy := false };
      s.decPending = true ∧ s.bpCount + 1 ≥ s.cfg.thresh s.hRate ∧ s.dspBusy = false) ∧
    (let s : State := { busy with decPending := true, bpCount := 2 };
      s.decPending = true ∧ ¬(s.bpCount + 1 ≥ s.cfg.thresh s.hRate)) ∧
    (let s : State := { busy with decPending := true, bpCount := 3 }; s.decPending = true ∧ s.dspBusy = true) := by decide
theorem witness_DecDropDiscards : State.reset.decPending = false := rfl
theorem witness_LowByteNeedsItsDecoderState : State.reset.decPending = false ∧
    ({ State.reset with decPending := true } : State).decPending = true := by decide
theorem witness_Resynchronisation : busy.hConn = .connected ∧ busy.decPending = false ∧ 7 < 2 * [100#10, 200#10, 300#10, 400#10].length ∧
    (feed ((stream [100#10, 200#10]).drop 1) busy).map (fun r => r.2) = some [200#16] := by decide
theorem witness_HostRingKeepsMostRecent : 1 ≤ ring4.cfg.hsN ∧ ring4.hsHead = 0 ∧ ring4.hsCount = 0 ∧
    4 ≤ min [10#16, 20#16, 30#16, 40#16, 50#16].length ring4.cfg.hsN := by decide
theorem witness_ReadRecentIsBounded : HsOk busy ∧ 0 ≤ busy.hsCount ∧ 1 ≤ busy.hsCount ∧ busy.hsCount < 2 :=
  ⟨hsOk_busy, by decide, by decide, by decide⟩
theorem witness_PassesNeverOutrunHits :
    (let s : State := { busy with bpCount := 3 }; s.bpCount + 1 ≥ s.cfg.thresh s.hRate ∧ s.dspBusy = true) ∧
    (let s : State := { busy with bpCount := 3, dspBusy := false };
      passStarts s (bpCount s) = true ∧ bpStarted [true, true, true, true, true] s = 1 ∧
      bpHits [true, true, true, true, true] s = 2) := by decide
theorem test_recapture_counts_as_a_start : passStarts busy (bpAccept { busy with hRate := .r20 }) = true := by decide
theorem witness_CountStaysBelowThreshold : 1 ≤ State.reset.cfg.thresh State.reset.hRate := by decide
theorem witness_DspDonePublishes : busy.dspBusy = true ∧ State.reset.dspBusy = false := by decide
theorem witness_PublishedResultIsWithinEps : StateInv busy ∧ busy.dspBusy = true := ⟨inv_busy, rfl⟩
theorem witness_ButterfliesComputeTheTransform : 0 < 2 ^ 0 ∧ 7 < 2 ^ 3 := by decide
theorem witness_BitReversalIsItsOwnInverse : 6 < 2 ^ 3 ∧ 2 < 3 := by decide
theorem witness_StageInLoopOrder : (1 ≤ 1 ∧ 1 ≤ 3 ∧ 7 < 2 ^ 3) ∧ (1 ≤ 3 ∧ 3 ≤ 3 ∧ 0 < 2 ^ 3) := by decide
theorem witness_TwiddlesComeFromTheTable :
    (0 ≤ 3 ∧ 0 < 2 ^ (0 - 1)) ∧ (1 ≤ 1 ∧ 0 < 2 ^ (1 - 1)) ∧ (3 ≤ 3 ∧ 3 < 2 ^ (3 - 1) ∧ 1 ≤ 3 ∧ 2 ≤ 3) := by decide
theorem witness_HammingWindowShape : (2 ≤ 2 ∧ 1 < 2) ∧ (2 ≤ 3 ∧ 3 % 2 = 1) := by decide
theorem witness_WindowSumClosedForm : 3 ≤ 3 ∧ 1 ≤ 1 := by decide
theorem witness_FftSizeIsLeastPowerOfTwo : 2 ≤ 2 ∧ max 3 2 ≤ 2 ^ 2 := by decide
theorem witness_ConstantWindowHasNoSpectrum : Params.testInstance.Wf ∧ 1 ≤ 1 := ⟨wf_testInstance, le_refl 1⟩
theorem witness_IdealPassFormulas : Params.testInstance.Wf ∧ [256, 768, 256, 768] ≠ [] := ⟨wf_testInstance, by decide⟩
theorem witness_EmptyWindowGivesZeroResult : Params.testInstance.Wf := wf_testInstance
theorem witness_HostSendUpdatesItsCopy : busy.hConn = .connected ∧ State.reset.hConn ≠ .connected := by decide
theorem witness_HostConnectRequestsHandshake :
    (State.reset.hConn = .disconnected ∨ State.reset.hConn = .failed) ∧
    (busy.hConn = .handshaking ∨ busy.hConn = .connected) := by decide
theorem witness_HandshakeCheckIsExact : (let s : State := { State.reset with hConn := .handshaking };
    s.hConn = .handshaking ∧ s.hsRx = []) ∧ response.length = 8 := by decide
theorem witness_ReceivedByteIsRoutedByConnection :
    (let s : State := { State.reset with hConn := .handshaking, hsRx := List.replicate 6 0#8 };
      s.hConn = .handshaking ∧ s.hsRx.length < 7) ∧
    (State.reset.hConn = .disconnected ∨ State.reset.hConn = .failed) ∧ busy.hConn = .connected := by decide
theorem witness_OnlyHostConnectOpensASession :
    after (perform .hostConnect State.reset) (fun t => t.hConn == .handshaking) = true ∧
    after (perform .hostConnect { State.reset with hConn := .failed }) (fun t => t.hConn == .handshaking) = true ∧
    after (perform .hostDisconnect { State.reset with hConn := .failed }) (fun t => t.hConn == .disconnected) = true ∧
    after (perform .hostReset { State.reset with hConn := .failed }) (fun t => t.hConn == .disconnected) = true ∧
    after (perform (.hostRx 0x6D#8)
      { State.reset with hConn := .handshaking, hsRx := [0x4F#8, 0x53#8, 0x43#8, 0x5F#8, 0x56#8, 0x31#8, 0x0A#8] })
        (fun t => t.hConn == .connected) = true := by decide
theorem witness_StepRunsTheDecodedInstruction :
    (let s : State := { State.reset with trace := [.linkH2d .deliver], linkH2d := [0x01#8] };
      s.trace = .linkH2d .deliver :: [] ∧ s.linkH2d = 0x01#8 :: [] ∧ s.hsPos = none ∧ s.convLo = none) ∧
    decode .cmd [0x01#8] = .ok (.cmdStart, []) ∧
    (let s : State := { busy with trace := [.linkD2h .deliver], linkD2h := [0x85#8] };
      s.trace = .linkD2h .deliver :: [] ∧ s.linkD2h = 0x85#8 :: [] ∧ s.hConn = .connected) ∧
    decode (.data busy.decPending) [0x85#8] = .ok (.decHi 0#4 5#3, []) := by decide
theorem witness_StepWithoutProgramIsAnAgentsChoice : State.reset.trace = [] := rfl
theorem witness_OperationsCompleteExactlyWhenEnabled : enabled .tick busy = true ∧ enabled .tick State.reset = false := by
  decide
theorem witness_EveryStepKeepsInv : StateInv { busy with trace := [.tick] } ∧
    ∃ t, step { busy with trace := [.tick] } = .next t :=
  ⟨⟨inv_busy.cfg, inv_busy.txMem, inv_busy.hsMem, inv_busy.win, ⟨by decide, by decide, by decide, by decide⟩, inv_busy.ind,
    ⟨hsOk_busy.1, hsOk_busy.2, hsOk_busy.3, hsOk_busy.4, hsOk_busy.5⟩,
    fun _ => ⟨passOk_busy.1, passOk_busy.2, passOk_busy.3⟩, inv_busy.rx, inv_busy.hsPos, inv_busy.convLo, inv_busy.res⟩,
    _, rfl⟩
theorem witness_HalvesMeetOnlyOnTheLink :
    (Event.ofDevice .txDrain = true ∧ after (perform .txDrain full4) (fun t => t.linkD2h == [0x11#8]) = true) ∧
    (Event.ofHost .hostConnect = true ∧ after (perform .hostConnect State.reset) (fun t => t.linkH2d == [0x3F#8]) = true) := by
  decide
theorem witness_ResetHasInv : ({ Params.testInstance with txN := 2, hsN := 4, fftMin := 2, resetRate := .r20 } : Params).Wf := by
  decide
theorem witness_OnlyTheNamedWritersWrite :
    after (perform (.txPush 0#8) { full4 with convLo := some 0#8 }) (fun t => !full4.txFault && t.txFault) = true ∧
    after (perform (.devReset .watchdog) (txPush 0#8 full4)) (fun t => (txPush 0#8 full4).txFault && !t.txFault) = true ∧
    after (perform (.cmd 0x01#8) State.reset) (fun t => t.acq == .running) = true := by decide
theorem witness_LinkActsOnTheFrontByte :
    (let s : State := { busy with linkD2h := [0x85#8] };
      s.linkD2h = 0x85#8 :: [] ∧ s.cfg.linkModel ≠ .lossless ∧ s.cfg.linkModel = .noisy) ∧
    (let s : State := { busy with linkH2d := [0x01#8] }; s.linkH2d = 0x01#8 :: []) ∧
    (busy.linkD2h = [] ∧ busy.linkH2d = []) ∧
    (({ Params.testInstance with linkModel := .lossless } : Params).linkModel = .lossless) ∧
    (({ Params.testInstance with linkModel := .lossy } : Params).linkModel ≠ .noisy) := by decide
theorem witness_SampleReachesTheHostRing : StateInv busy ∧ 4 ≤ busy.cfg.txN ∧ busy.acq = .running ∧ busy.convLo = none ∧
    busy.grain = .whole ∧ busy.txHead = busy.txTail ∧ busy.linkD2h = [] ∧ busy.hConn = .connected :=
  ⟨inv_busy, by decide, rfl, rfl, rfl, rfl, rfl, rfl⟩

end Sys2Proof.Tests
end

/-! ## The device's ring as a queue

`liveBytes s` is what the TX ring holds, oldest first. Under `TxOk` a push that is not refused appends to it and a
drain takes its front, so that a later proof speaks of the list and not of cells and indices. -/

namespace Sys2Proof.Machine

variable {s : State}

/-- Only the capacity, the two indices and the armed drain enter `TxOk`. -/
theorem TxOk.of_eq {t : State} (h : TxOk s) (cfg : t.cfg = s.cfg) (head : t.txHead = s.txHead)
    (tail : t.txTail = s.txTail) (drain : t.txDrainEn = s.txDrainEn) : TxOk t where
  two_le := cfg ▸ h.two_le
  head_lt := by rw [cfg, head]; exact h.head_lt
  tail_lt := by rw [cfg, tail]; exact h.tail_lt
  drain := by rw [drain, head, tail]; exact h.drain

theorem ringSucc_lt {n : Nat} (hn : 2 ≤ n) (i : Nat) : ringSucc n i < n := Nat.mod_lt _ (by omega)

theorem ringSucc_ne_self {n i : Nat} (hn : 2 ≤ n) (hi : i < n) : ringSucc n i ≠ i := by
  rw [ringSucc_of_lt hi]
  split <;> omega

theorem TxOk.txPush (h : TxOk s) (b : Byte) : TxOk (txPush b s) := by
  obtain ⟨two_le, head_lt, tail_lt, drain⟩ := h
  cases hf : txFull s
  case true => exact ⟨by simpa, by simpa [txPush_eq, hf], by simpa, by simpa [txPush_eq, hf]⟩
  case false =>
    have room : ringSucc s.cfg.txN s.txHead ≠ s.txTail := by simpa [txFull] using hf
    exact ⟨by simpa, by simpa [txPush_eq, hf] using ringSucc_lt two_le _, by simpa, by simpa [txPush_eq, hf]⟩

theorem TxOk.txDrain (h : TxOk s) : TxOk (txDrain s) := by
  obtain ⟨two_le, head_lt, tail_lt, drain⟩ := h
  by_cases he : s.txHead = s.txTail
  case pos => exact ⟨by simpa, by simpa, by simpa [txDrain_eq, txEmpty, he], by simp [txDrain_eq, txEmpty, he]⟩
  case neg =>
    exact ⟨by simpa, by simpa, by simpa [txDrain_eq, txEmpty, he] using ringSucc_lt two_le _,
      by simp [txDrain_eq, txEmpty, he, drain]⟩

theorem txRead_txPush_same (b : Byte) (hf : txFull s = false) : (txPush b s).txRead s.txPushCell = b := by
  simp [State.txRead, txPush_eq, hf, memRead_memWrite_same]

theorem txRead_txPush_other (b : Byte) {a : Nat} (ha : a ≠ s.txPushCell) : (txPush b s).txRead a = s.txRead a := by
  cases hf : txFull s <;> simp [State.txRead, txPush_eq, hf, memRead_memWrite_other _ _ ha]

@[simp] theorem txRead_txDrain (a : Nat) : (txDrain s).txRead a = s.txRead a := by simp [State.txRead]

@[simp] theorem liveBytes_length : (liveBytes s).length = txLive s := by simp [liveBytes]

theorem txLive_lt (h : TxOk s) : txLive s < s.cfg.txN := Nat.mod_lt _ (by have := h.two_le; omega)

/-- `tx_live` bytes on from the tail stands the head. -/
theorem txTail_add_txLive (h : TxOk s) : (s.txTail + txLive s) % s.cfg.txN = s.txHead := by
  obtain ⟨-, head_lt, tail_lt, -⟩ := h
  rw [txLive, ringSub_of_lt head_lt tail_lt]
  split
  · rw [Nat.mod_eq_of_lt (by omega)]; omega
  · rw [show s.txTail + (s.txHead + (s.cfg.txN - s.txTail)) = s.txHead + s.cfg.txN by omega, Nat.add_mod_right,
      Nat.mod_eq_of_lt head_lt]

/-- The ring is full exactly when all its bytes but one are live (41_ring_buffers.md R142). -/
theorem txFull_iff_txLive (h : TxOk s) : txFull s = true ↔ txLive s + 1 = s.cfg.txN := by
  obtain ⟨two_le, head_lt, tail_lt, -⟩ := h
  rw [txFull, beq_iff_eq, txLive, ringSucc_of_lt head_lt, ringSub_of_lt head_lt tail_lt]
  split <;> split <;> omega

theorem txLive_eq_zero_iff (h : TxOk s) : txLive s = 0 ↔ s.txHead = s.txTail := by
  obtain ⟨-, head_lt, tail_lt, -⟩ := h
  rw [txLive, ringSub_of_lt head_lt tail_lt]
  split <;> omega

theorem liveBytes_eq_nil_iff (h : TxOk s) : liveBytes s = [] ↔ s.txHead = s.txTail := by
  rw [← txLive_eq_zero_iff h, ← liveBytes_length, List.length_eq_zero_iff]

theorem txDrainEn_of_liveBytes (h : TxOk s) {b : Byte} {bs : List Byte} (hl : liveBytes s = b :: bs) :
    s.txDrainEn = true :=
  h.drain.2 fun he => by simp [(liveBytes_eq_nil_iff h).2 he] at hl

theorem txLive_txPush (h : TxOk s) (b : Byte) (hf : txFull s = false) : txLive (txPush b s) = txLive s + 1 := by
  have room : ringSucc s.cfg.txN s.txHead ≠ s.txTail := by simpa [txFull] using hf
  obtain ⟨two_le, head_lt, tail_lt, -⟩ := h
  simp only [txLive, txPush_eq, hf, Bool.false_eq_true, if_false]
  rw [ringSucc_of_lt head_lt] at room
  rw [ringSub_of_lt (ringSucc_lt two_le _) tail_lt, ringSub_of_lt head_lt tail_lt, ringSucc_of_lt head_lt]
  split_ifs at room ⊢ <;> omega

theorem txLive_txDrain (h : TxOk s) (he : s.txHead ≠ s.txTail) : txLive s = txLive (txDrain s) + 1 := by
  obtain ⟨two_le, head_lt, tail_lt, -⟩ := h
  simp only [txLive, txDrain_eq, txEmpty, beq_eq_false_iff_ne.2 he, Bool.false_eq_true, if_false]
  rw [ringSub_of_lt head_lt (ringSucc_lt two_le _), ringSub_of_lt head_lt tail_lt, ringSucc_of_lt tail_lt]
  split <;> split <;> split <;> omega

/-- The cell a push writes holds no live byte. -/
theorem liveCell_ne_txPushCell (h : TxOk s) {j : Nat} (hj : j < txLive s) :
    (s.txTail + j) % s.cfg.txN ≠ s.txPushCell := by
  have hlive := txLive_lt h
  rw [State.txPushCell, ← txTail_add_txLive h, Nat.mod_mod]
  exact fun hc => by
    have := Nat.ModEq.add_left_cancel' s.txTail (show _ ≡ _ [MOD s.cfg.txN] from hc)
    rw [Nat.ModEq, Nat.mod_eq_of_lt (by omega), Nat.mod_eq_of_lt hlive] at this
    omega

/-- A push that is not refused appends its byte (41_ring_buffers.md R141). -/
theorem liveBytes_txPush (h : TxOk s) (b : Byte) (hf : txFull s = false) :
    liveBytes (txPush b s) = liveBytes s ++ [b] := by
  have older : ∀ j ∈ List.range (txLive s), (txPush b s).txRead ((s.txTail + j) % s.cfg.txN)
      = s.txRead ((s.txTail + j) % s.cfg.txN) := fun j hj =>
    txRead_txPush_other b (liveCell_ne_txPushCell h (List.mem_range.1 hj))
  have newest : (txPush b s).txRead ((s.txTail + txLive s) % s.cfg.txN) = b := by
    rw [txTail_add_txLive h, ← Nat.mod_eq_of_lt h.head_lt]
    exact txRead_txPush_same b hf
  rw [liveBytes, liveBytes, txLive_txPush h b hf, List.range_succ, List.map_append]
  simp only [txPush_txTail, txPush_cfg, List.map_cons, List.map_nil, newest]
  rw [List.map_congr_left older]

theorem txFull_eq_false (h : TxOk s) (room : (liveBytes s).length + 1 < s.cfg.txN) : txFull s = false := by
  rw [liveBytes_length] at room
  exact Bool.eq_false_iff.2 fun hf => by have := (txFull_iff_txLive h).1 hf; omega

/-- Pushes for which there is room are all stored, in order, and no overflow is shown. -/
theorem txPushAll_of_room {bs : List Byte} (h : TxOk s) (room : (liveBytes s).length + bs.length < s.cfg.txN) :
    TxOk (txPushAll bs s) ∧ liveBytes (txPushAll bs s) = liveBytes s ++ bs ∧
      (txPushAll bs s).txFault = s.txFault := by
  induction bs generalizing s with
  | nil => exact ⟨h, (List.append_nil _).symm, rfl⟩
  | cons b bs ih =>
    rw [List.length_cons] at room
    have hf := txFull_eq_false h (by omega)
    have stored := liveBytes_txPush h b hf
    have left : (liveBytes (txPush b s)).length + bs.length < (txPush b s).cfg.txN := by
      rw [stored, List.length_append, List.length_singleton, txPush_cfg]
      omega
    obtain ⟨ok, live, fault⟩ := ih (h.txPush b) left
    exact ⟨ok, by rw [txPushAll_cons, live, stored, List.append_assoc, List.singleton_append],
      by rw [txPushAll_cons, fault]; simp [txPush_eq, hf]⟩

/-- A drain takes the oldest byte and leaves the rest in order (41_ring_buffers.md R144). -/
theorem liveBytes_eq_cons_txDrain (h : TxOk s) (he : s.txHead ≠ s.txTail) :
    liveBytes s = s.txRead s.txDrainCell :: liveBytes (txDrain s) := by
  have tail : (txDrain s).txTail = ringSucc s.cfg.txN s.txTail := by simp [txDrain_eq, txEmpty, he]
  have shift : ∀ j, (s.txTail + (j + 1)) % s.cfg.txN = ((txDrain s).txTail + j) % s.cfg.txN := fun j => by
    rw [tail, ringSucc, Nat.mod_add_mod]
    congr 1
    omega
  rw [liveBytes, txLive_txDrain h he, List.range_succ_eq_map, List.map_cons, List.map_map, liveBytes]
  simp [State.txDrainCell, Function.comp_def, shift]

/-- A drain of a ring that holds `b :: bs` puts `b` on the link and leaves `bs`. -/
theorem txDrain_of_liveBytes (h : TxOk s) {b : Byte} {bs : List Byte} (hl : liveBytes s = b :: bs) :
    (txDrain s).linkD2h = s.linkD2h ++ [b] ∧ liveBytes (txDrain s) = bs := by
  have he : s.txHead ≠ s.txTail := fun he => by simp [(liveBytes_eq_nil_iff h).2 he] at hl
  obtain ⟨front, rest⟩ := List.cons.inj (hl.symm.trans (liveBytes_eq_cons_txDrain h he))
  exact ⟨by simp [txDrain_eq, txEmpty, he, front], rest.symm⟩

end Sys2Proof.Machine

/-! ## A command byte and a received byte always complete -/

namespace Sys2Proof.Machine

variable (s : State)

/-- The one command with two ways to run completes in both (log 8). -/
theorem execCmdHandshake_completes : ∃ t, execCmdHandshake s = .next t := by
  unfold execCmdHandshake
  cases s.grain <;> exact ⟨_, rfl⟩

theorem exec_command_completes {i : Instr} (hi : i.isCommand = true) : ∃ t, exec i s = .next t := by
  cases i with
  | cmdHandshake => exact execCmdHandshake_completes s
  | cmdStart | cmdStop | cmdRate1 | cmdRate10 | cmdRate20 | cmdIgnore => exact ⟨_, rfl⟩
  | decHi | decLo | decDrop => cases hi

theorem decodeCommand_isCommand (b : Byte) : (decodeCommand b).isCommand = true := by
  unfold decodeCommand
  split_ifs <;> rfl

theorem opCmd_completes (b : Byte) : ∃ t, opCmd b s = .next t :=
  exec_command_completes s (decodeCommand_isCommand b)

/-- A connected host runs what the byte decodes to in its decoder's state (42_command_channel.md R172). -/
theorem opHostRx_of_connected {s : State} (b : Byte) (hc : s.hConn = .connected) :
    opHostRx b s = exec (decodeData s.decPending b) s := by
  simp [opHostRx, hc, decode]

/-- The decoder's own state never picks an operation that is not enabled in it (30_encoding.md R99). -/
theorem exec_decodeData_completes (b : Byte) : ∃ t, exec (decodeData s.decPending b) s = .next t := by
  unfold decodeData
  cases b.getLsbD 7 with
  | true => exact ⟨_, rfl⟩
  | false =>
    cases hp : s.decPending with
    | true => exact ⟨_, if_pos hp⟩
    | false => exact ⟨s, if_neg (by simp [hp])⟩

theorem opHostRx_completes (b : Byte) : ∃ t, opHostRx b s = .next t := by
  cases hc : s.hConn with
  | connected => exact opHostRx_of_connected b hc ▸ exec_decodeData_completes s b
  | handshaking => exact ⟨collectHandshake b s, by simp [opHostRx, hc]⟩
  | disconnected | failed => exact ⟨s, by simp [opHostRx, hc]⟩

/-! ## Each operation completes where it is enabled -/

theorem opConvDone_completes (v : Sample) : ∃ t, opConvDone v s = .next t := by
  unfold opConvDone
  cases s.grain <;> exact ⟨_, rfl⟩

theorem opDevReset_completes (c : ResetCause) : ∃ t, opDevReset c s = .next t := by
  cases c <;> exact ⟨_, rfl⟩

/-- A push written out completes when it is the next sub-step of an operation in progress. -/
theorem opTxPush_completes {s : State} {b : Byte} (hb : nextPush s = some b) : ∃ t, opTxPush b s = .next t := by
  unfold opTxPush
  cases hlo : s.convLo with
  | some lo => exact ⟨_, rfl⟩
  | none =>
    cases hpos : s.hsPos with
    | some k => exact ⟨_, rfl⟩
    | none => simp [nextPush, hlo, hpos] at hb

theorem opLinkD2h_completes {s : State} (act : LinkAct) (hq : s.linkD2h ≠ []) : ∃ t, opLinkD2h act s = .next t := by
  obtain ⟨b, q, hq⟩ := List.exists_cons_of_ne_nil hq
  rw [opLinkD2h, hq]
  cases act with
  | deliver => exact opHostRx_completes _ b
  | drop => exact ⟨_, rfl⟩
  | garble b' => exact opHostRx_completes _ b'

theorem opLinkH2d_completes {s : State} (act : LinkAct) (hq : s.linkH2d ≠ []) : ∃ t, opLinkH2d act s = .next t := by
  obtain ⟨b, q, hq⟩ := List.exists_cons_of_ne_nil hq
  rw [opLinkH2d, hq]
  cases act with
  | deliver => exact opCmd_completes _ b
  | drop => exact ⟨_, rfl⟩
  | garble b' => exact opCmd_completes _ b'

theorem linkH2d_ne_nil_of_enabled {s : State} {act : LinkAct} (h : enabled (.linkH2d act) s = true) :
    s.linkH2d ≠ [] := by
  cases act <;> simp_all [enabled]

theorem take_completes {e : Event} {s : State} (h : enabled e s = true) : ∃ t, take e s = .next t := by
  cases e with
  | devReset c => exact opDevReset_completes s c
  | convDone v => exact opConvDone_completes s v
  | txPush b => exact opTxPush_completes (by simpa [enabled] using h)
  | linkD2h act => exact opLinkD2h_completes act (by simp_all [enabled])
  | linkH2d act => exact opLinkH2d_completes act (linkH2d_ne_nil_of_enabled h)
  | cmd b => exact opCmd_completes s b
  | hostRx b => exact opHostRx_completes s b
  | hostReset | tick | txDrain | hostSend | hostConnect | hostTimeout | hostDisconnect | hostXfault | hsReadRecent
  | dspDone | setGrain => exact ⟨_, rfl⟩

theorem perform_of_not_enabled {e : Event} {s : State} (h : enabled e s = false) :
    perform e s = .fault .notEnabled := by
  simp [perform, h]

/-- Settles O54, by the completion lemma of each operation. -/
theorem operationsCompleteExactlyWhenEnabled : Obligations.OperationsCompleteExactlyWhenEnabled := by
  unfold Obligations.OperationsCompleteExactlyWhenEnabled
  exact fun e s => ⟨fun h => perform_of_enabled h ▸ take_completes h, perform_of_not_enabled⟩

end Sys2Proof.Machine

/-! ## What `DSP.DONE` publishes -/

namespace Sys2Proof.Machine

open Sys2Proof.Dsp

variable {s : State}

theorem perform_dspDone (hb : s.dspBusy = true) :
    perform .dspDone s = .next (publish (Config.num.pass s.cfg s.rawWindow s.passFs) s) :=
  perform_of_enabled hb

@[simp] theorem rawWindow_length : s.rawWindow.length = s.passL := by simp [State.rawWindow, State.window]

theorem winRead_toNat_le (h : PassOk s) {j : Nat} (hj : j < s.passL) : (s.winRead j).toNat ≤ 1023 := by
  obtain ⟨x, read, le⟩ := h.valid j hj
  simpa [State.winRead, read] using le

/-- The window of a pass in flight is one the block can capture: `NUM`'s error bounds speak of it. -/
theorem rawWindow_isWindow (h : PassOk s) : IsWindow s.cfg s.rawWindow := by
  refine ⟨rawWindow_length.trans_le h.le, fun x hx => ?_⟩
  simp only [State.rawWindow, State.window, List.map_map, List.mem_map, List.mem_range] at hx
  obtain ⟨j, hj, rfl⟩ := hx
  exact winRead_toNat_le h hj

theorem rawWindow_ne_nil (h : PassOk s) : s.rawWindow ≠ [] :=
  List.ne_nil_of_length_pos (rawWindow_length.symm ▸ h.pos)

theorem pass_of_ne_nil (n : NumStages) (p : Params) {r : List Nat} (fs : Rate) (hr : r ≠ []) :
    n.pass p r fs = n.fromVolts p (n.stage1 p r) fs := if_neg hr

/-- Settles O31: the error bound `NUM` carries, at the window of the pass in flight. -/
theorem publishedResultIsWithinEps : Obligations.PublishedResultIsWithinEps := by
  unfold Obligations.PublishedResultIsWithinEps
  refine ⟨Config.num.examples, fun s inv busy => ?_⟩
  have bounds := Config.num.eps_bounds
  have ok := inv.pass busy
  have window := rawWindow_isWindow ok
  have nonempty := rawWindow_ne_nil ok
  exact ⟨_, perform_dspDone busy, bounds.pos _ inv.cfg, bounds.conforms _ _ _ inv.cfg window,
    pass_of_ne_nil _ _ _ nonempty, bounds.stages _ _ _ inv.cfg window nonempty⟩

end Sys2Proof.Machine

/-! ## A Frame's two bytes at the decoder -/

namespace Sys2Proof.Machine

variable {s : State}

/-- A byte with the sync bit is `DEC.HI` in either decoder state (30_encoding.md R92). -/
theorem decodeData_encodeByte_decHi (pending : Bool) (pad : BitVec 4) (h : BitVec 3) :
    decodeData pending (encodeByte (.decHi pad h)) = .decHi pad h := by
  have sync : (encodeByte (.decHi pad h)).getLsbD 7 = true := by
    change (1#1 ++ pad ++ h).getLsbD 7 = true
    rw [BitVec.getLsbD_append, BitVec.getLsbD_append]
    rfl
  have middle : (encodeByte (.decHi pad h)).extractLsb' 3 4 = pad := by
    change (1#1 ++ pad ++ h).extractLsb' 3 4 = pad
    refine BitVec.eq_of_getLsbD_eq fun i hi => ?_
    rw [BitVec.getLsbD_extractLsb', BitVec.getLsbD_append, BitVec.getLsbD_append]
    simp [hi]
  have low : (encodeByte (.decHi pad h)).extractLsb' 0 3 = h := BitVec.extractLsb'_append_eq_right
  simp [decodeData, sync, middle, low]

/-- A byte without the sync bit is `DEC.LO` or `DEC.DROP`, by the decoder's state (30_encoding.md R99). -/
theorem decodeData_sync_zero (pending : Bool) (l : BitVec 7) :
    decodeData pending (0#1 ++ l) = if pending then .decLo l else .decDrop l := by
  have sync : (0#1 ++ l).getLsbD 7 = false := by
    rw [BitVec.getLsbD_append]
    rfl
  have low : (0#1 ++ l).extractLsb' 0 7 = l := BitVec.extractLsb'_append_eq_right
  unfold decodeData
  rw [sync, low]
  rfl

/-- The two fields of a Frame make the Sample again (30_encoding.md R96). -/
theorem assemble_extractLsb' (v : Sample) :
    assemble (v.toCell.extractLsb' 7 3) (v.toCell.extractLsb' 0 7) = v := by
  refine BitVec.eq_of_getLsbD_eq fun i hi => ?_
  change (v.toCell.extractLsb' 7 3 ++ v.toCell.extractLsb' 0 7).getLsbD i = v.getLsbD i
  rw [BitVec.getLsbD_append, BitVec.getLsbD_extractLsb', BitVec.getLsbD_extractLsb', BitVec.getLsbD_setWidth,
    BitVec.getLsbD_setWidth]
  split
  case isTrue low => simp [low, show i < 16 by omega]
  case isFalse high => simp [show 7 + (i - 7) = i by omega, show i - 7 < 3 by omega, show i < 16 by omega]

/-- The high byte of a Frame is latched (40_frame_codec.md R123). -/
theorem opHostRx_encHi (v : Cell16) (hc : s.hConn = .connected) :
    opHostRx (encHi v) s = .next { s with decHigh := v.extractLsb' 7 3, decPending := true } := by
  rw [opHostRx_of_connected _ hc, show encHi v = encodeByte (.decHi 0 (v.extractLsb' 7 3)) from rfl,
    decodeData_encodeByte_decHi]
  rfl

/-- The low byte of the Frame whose high byte is pending delivers the Sample (40_frame_codec.md R124). -/
theorem opHostRx_encLo (v : Sample) (hc : s.hConn = .connected) (pending : s.decPending = true)
    (high : s.decHigh = v.toCell.extractLsb' 7 3) :
    opHostRx (encLo v.toCell) s = .next (bpCount (hsWrite v.toCell { s with decPending := false })) := by
  rw [opHostRx_of_connected _ hc, pending, encLo, decodeData_sync_zero]
  simp [exec, execDecLo, pending, high, assemble_extractLsb']

/-- A counted Sample is read back from the cell it was written to (41_ring_buffers.md R146). -/
theorem hsRead_bpCount_hsWrite (v : Cell16) : (bpCount (hsWrite v s)).hsRead s.hsWriteCell = v := by
  simp [State.hsRead, memRead_memWrite_same]

end Sys2Proof.Machine

/-! ## Runs of a loaded trace, a pseudo-operation at a time -/

namespace Sys2Proof.Machine

variable {s : State} {rest : List Event}

theorem step_of_trace {e : Event} (line : s.trace = e :: rest) (h : enabled e { s with trace := rest } = true) :
    step s = take e { s with trace := rest } := by
  rw [step, takeNext, line]
  exact perform_of_enabled h

theorem run_succ_of_step {t : State} (k : Nat) (h : step s = .next t) : core.run (k + 1) s = core.run k t := by
  have h' : core.step s = .next t := h
  simp only [Host.Core.run, h']

/-- `s` after `SAMPLE v` with `CONV.DONE` taken whole, `rest` being still to run. -/
def State.sampled (v : Sample) (rest : List Event) (s : State) : State :=
  txPushAll (traceFrame v) (emit .convStart { s with convPending := false, trace := rest })

@[simp] theorem sampled_cfg (v : Sample) : (s.sampled v rest).cfg = s.cfg := by simp [State.sampled, traceFrame]
@[simp] theorem sampled_linkD2h (v : Sample) : (s.sampled v rest).linkD2h = s.linkD2h := by
  simp [State.sampled, traceFrame]
@[simp] theorem sampled_hConn (v : Sample) : (s.sampled v rest).hConn = s.hConn := by simp [State.sampled, traceFrame]
@[simp] theorem sampled_hsHead (v : Sample) : (s.sampled v rest).hsHead = s.hsHead := by
  simp [State.sampled, traceFrame]
@[simp] theorem sampled_hsCount (v : Sample) : (s.sampled v rest).hsCount = s.hsCount := by
  simp [State.sampled, traceFrame]
@[simp] theorem sampled_trace (v : Sample) : (s.sampled v rest).trace = rest := by simp [State.sampled, traceFrame]

/-- The Frame of a Sample taken with an empty ring is what the ring then holds; nothing overflows. -/
theorem sampled_of_empty (v : Sample) (ok : TxOk s) (empty : s.txHead = s.txTail) (room : 2 < s.cfg.txN) :
    TxOk (s.sampled v rest) ∧ liveBytes (s.sampled v rest) = traceFrame v ∧ (s.sampled v rest).txFault = s.txFault := by
  have ok' : TxOk (emit .convStart { s with convPending := false, trace := rest }) := ok.of_eq rfl rfl rfl rfl
  have nothing := (liveBytes_eq_nil_iff ok').2 empty
  simpa [State.sampled, nothing] using txPushAll_of_room (bs := traceFrame v) ok' (by rw [nothing]; exact room)

/-- `SAMPLE v` with `CONV.DONE` taken whole pushes the Frame (40_frame_codec.md R120, R121). -/
theorem run_traceSample {v : Sample} (k : Nat) (line : s.trace = traceSample v ++ rest) (running : s.acq = .running)
    (idle : s.convLo = none) (whole : s.grain = .whole) :
    core.run (k + 2) s = core.run k (s.sampled v rest) := by
  have tick : step s = .next (emit .convStart { s with convPending := true, trace := .convDone v :: rest }) :=
    step_of_trace line (by simp [enabled, convIdle, running, idle])
  rw [run_succ_of_step (k + 1) tick]
  refine run_succ_of_step k ((step_of_trace rfl ?_).trans ?_)
  · simp [enabled, convIdle, idle]
  · simp [take, opConvDone, whole, State.sampled, traceFrame, emit]

/-- A drain does not read the program. -/
theorem txDrain_with_trace (tr : List Event) : txDrain { s with trace := tr } = { txDrain s with trace := tr } := by
  rw [txDrain_eq, txDrain_eq s]
  rfl

/-- `s` once `XFER` has taken the oldest byte over a quiet line and before the host takes it, `rest` being still to run. -/
def State.handOver (rest : List Event) (s : State) : State := { txDrain s with linkD2h := [], trace := rest }

/-- `XFER` on a quiet line hands the oldest byte of the ring to `HOST.RX` (41_ring_buffers.md R144, 20_memory.md R70). -/
theorem run_traceXfer {b : Byte} {bs : List Byte} {t : State} (k : Nat) (line : s.trace = traceXfer ++ rest)
    (ok : TxOk s) (live : liveBytes s = b :: bs) (quiet : s.linkD2h = [])
    (rx : opHostRx b (s.handOver rest) = .next t) :
    core.run (k + 2) s = core.run k t := by
  have drain : step s = .next { txDrain s with trace := .linkD2h .deliver :: rest } := by
    rw [step_of_trace line (txDrainEn_of_liveBytes (ok.of_eq rfl rfl rfl rfl) live)]
    exact congrArg _ (txDrain_with_trace _)
  have sent : (txDrain s).linkD2h = [b] := by simpa [quiet] using (txDrain_of_liveBytes ok live).1
  have deliver : step { txDrain s with trace := .linkD2h .deliver :: rest } = .next t := by
    rw [step_of_trace rfl (by simp [enabled, linkAllows, sent])]
    simpa [take, opLinkD2h, sent, State.handOver] using rx
  rw [run_succ_of_step (k + 1) drain, run_succ_of_step k deliver]

/-- `s` once the high byte of the Frame of `v` has been transferred, one more transfer to run. -/
def State.afterHigh (v : Sample) (s : State) : State :=
  { s.handOver traceXfer with decHigh := v.toCell.extractLsb' 7 3, decPending := true }

/-- `s` once both bytes of the Frame of `v` have been transferred, the Sample not yet written. -/
def State.afterLow (v : Sample) (s : State) : State := { (s.afterHigh v).handOver [] with decPending := false }

/-- Two transfers of a ring that holds one Frame deliver its Sample, and leave the device's ring empty. -/
theorem run_two_transfers {v : Sample} (line : s.trace = traceXfer ++ traceXfer) (ok : TxOk s)
    (live : liveBytes s = traceFrame v) (quiet : s.linkD2h = []) (connected : s.hConn = .connected) :
    core.run 4 s = .next (bpCount (hsWrite v.toCell (s.afterLow v))) ∧
      (s.afterLow v).txHead = (s.afterLow v).txTail := by
  have ok1 : TxOk (s.afterHigh v) := ok.txDrain.of_eq rfl rfl rfl rfl
  have live1 : liveBytes (s.afterHigh v) = [encLo v.toCell] := (txDrain_of_liveBytes ok live).2
  have first : core.run 4 s = core.run 2 (s.afterHigh v) :=
    run_traceXfer 2 line ok live quiet (opHostRx_encHi _ (by simpa [State.handOver]))
  have second : core.run 2 (s.afterHigh v) = core.run 0 (bpCount (hsWrite v.toCell (s.afterLow v))) :=
    run_traceXfer 0 rfl ok1 live1 rfl (opHostRx_encLo v (by simpa [State.handOver, State.afterHigh])
      (by simp [State.handOver, State.afterHigh]) (by simp [State.handOver, State.afterHigh]))
  have drained : (txDrain (s.afterHigh v)).txHead = (txDrain (s.afterHigh v)).txTail :=
    (liveBytes_eq_nil_iff ok1.txDrain).1 (txDrain_of_liveBytes ok1 live1).2
  exact ⟨first.trans second, drained⟩

@[simp] theorem afterLow_cfg (v : Sample) : (s.afterLow v).cfg = s.cfg := by
  simp [State.afterLow, State.afterHigh, State.handOver]
@[simp] theorem afterLow_hsHead (v : Sample) : (s.afterLow v).hsHead = s.hsHead := by
  simp [State.afterLow, State.afterHigh, State.handOver]
@[simp] theorem afterLow_hsCount (v : Sample) : (s.afterLow v).hsCount = s.hsCount := by
  simp [State.afterLow, State.afterHigh, State.handOver]
@[simp] theorem afterLow_txFault (v : Sample) : (s.afterLow v).txFault = s.txFault := by
  simp [State.afterLow, State.afterHigh, State.handOver]
@[simp] theorem afterLow_decPending (v : Sample) : (s.afterLow v).decPending = false := rfl
@[simp] theorem afterLow_linkD2h (v : Sample) : (s.afterLow v).linkD2h = [] := rfl
@[simp] theorem afterLow_trace (v : Sample) : (s.afterLow v).trace = [] := rfl

/-- Settles O60: the Frame is pushed into the empty ring, its two bytes are handed over in order, and the decoder
makes the Sample of them again. -/
theorem sampleReachesTheHostRing : Obligations.SampleReachesTheHostRing := by
  unfold Obligations.SampleReachesTheHostRing
  intro v s inv size running idle whole empty quiet connected
  obtain ⟨ok, live, noOverflow⟩ := sampled_of_empty (rest := traceXfer ++ traceXfer) v inv.tx empty (by omega)
  have sample := run_traceSample (s := { s with trace := traceSample v ++ traceXfer ++ traceXfer })
    (rest := traceXfer ++ traceXfer) 4 rfl running idle whole
  obtain ⟨transfers, drained⟩ := run_two_transfers (by simp) ok live (by simpa) (by simpa)
  have cell : ((s.sampled v (traceXfer ++ traceXfer)).afterLow v).hsWriteCell = s.hsWriteCell := by
    simp [State.hsWriteCell]
  refine ⟨_, sample.trans transfers, cell ▸ hsRead_bpCount_hsWrite _, ?_⟩
  simp [drained, noOverflow, ringSucc]

end Sys2Proof.Machine

/-! ## The invariant, half by half

The clauses of `StateInv` (10_state.md R47) speak of the device half or of the host half, never of both. `DeviceInv` and
`HostInv` are the two parts, and `State.deviceView` and `State.hostView` list all that each part reads: an operation of
one half leaves the other half's view alone, and with it the other half's part of the invariant. -/

namespace Sys2Proof.Machine

variable {s t : State}

/-- An array in its canonical form within a capacity. -/
abbrev MemWithin {β : Type} (n : Nat) (m : List (Nat × β)) : Prop := Memory.wf m = true ∧ ∀ c ∈ m, c.1 < n

theorem memWithin_nil {β : Type} (n : Nat) : MemWithin n ([] : List (Nat × β)) := ⟨rfl, by simp⟩

theorem MemWithin.memWrite {β : Type} {n a : Nat} {m : List (Nat × β)} (h : MemWithin n m) (v : β) (ha : a < n) :
    MemWithin n (memWrite m a v) :=
  ⟨memWrite_wf m a v h.1, memWrite_lt v ha h.2⟩

theorem MemWithin.memWriteFrom {β : Type} {n base : Nat} {m : List (Nat × β)} (h : MemWithin n m) (vs : List β)
    (fits : base + vs.length ≤ n) : MemWithin n (memWriteFrom m base vs) :=
  ⟨memWriteFrom_wf vs m base h.1, memWriteFrom_lt vs fits h.2⟩

/-- The invariant's clauses about the device half. -/
structure DeviceInv (s : State) : Prop where
  txMem : MemWithin s.cfg.txN s.txMem
  tx : TxOk s
  ind : s.cfg.faultIndMode = .sticky → s.faultInd = s.txFault
  hsPos : ∀ k, s.hsPos = some k → 1 ≤ k ∧ k < 8
  convLo : ∀ b, s.convLo = some b → b.toNat < 128

/-- The invariant's clauses about the host half. -/
structure HostInv (s : State) : Prop where
  hsMem : MemWithin s.cfg.hsN s.hsMem
  win : MemWithin s.cfg.w s.win
  hs : HsOk s
  pass : s.dspBusy = true → PassOk s
  rx : s.hsRx.length ≤ 8 ∧ (s.hConn = .handshaking → s.hsRx.length < 8)
  res : s.resValid = true → s.resSpec.length = s.resM / 2 ∧ ∀ x ∈ s.resSpec, 0 ≤ x

theorem stateInv_iff : StateInv s ↔ s.cfg.Wf ∧ DeviceInv s ∧ HostInv s where
  mp h := ⟨h.cfg, ⟨h.txMem, h.tx, h.ind, h.hsPos, h.convLo⟩, ⟨h.hsMem, h.win, h.hs, h.pass, h.rx, h.res⟩⟩
  mpr := fun ⟨wf, d, u⟩ => ⟨wf, d.txMem, u.hsMem, u.win, d.tx, d.ind, u.hs, u.pass, u.rx, d.hsPos, d.convLo, u.res⟩

/-- All that `DeviceInv` reads. -/
def State.deviceView (s : State) :=
  (s.cfg, s.txMem, s.txHead, s.txTail, s.txDrainEn, s.txFault, s.faultInd, s.hsPos, s.convLo)

/-- All that `HostInv` reads. -/
def State.hostView (s : State) :=
  (s.cfg, s.hsMem, s.hsHead, s.hsCount, s.dspBusy, s.win, s.passL, s.hConn, s.hsRx, s.resValid, s.resSpec, s.resM)

theorem DeviceInv.of_view (h : DeviceInv s) (same : t.deviceView = s.deviceView) : DeviceInv t := by
  simp only [State.deviceView, Prod.mk.injEq] at same
  obtain ⟨cfg, txMem, head, tail, drain, fault, ind, hsPos, convLo⟩ := same
  exact ⟨by rw [cfg, txMem]; exact h.txMem, h.tx.of_eq cfg head tail drain, by rw [cfg, ind, fault]; exact h.ind,
    by rw [hsPos]; exact h.hsPos, by rw [convLo]; exact h.convLo⟩

/-- Only the capacity, the cells, the head and the count enter `HsOk`. -/
theorem HsOk.of_eq (h : HsOk s) (cfg : t.cfg = s.cfg) (mem : t.hsMem = s.hsMem) (head : t.hsHead = s.hsHead)
    (count : t.hsCount = s.hsCount) : HsOk t where
  pos := cfg ▸ h.pos
  head_lt := by rw [cfg, head]; exact h.head_lt
  count_le := by rw [cfg, count]; exact h.count_le
  head_eq := by rw [cfg, count, head]; exact h.head_eq
  valid := by rw [cfg, count, head, mem]; exact h.valid

/-- Only the window's bound, its length and its cells enter `PassOk`. -/
theorem PassOk.of_eq (h : PassOk s) (cfg : t.cfg = s.cfg) (win : t.win = s.win) (passL : t.passL = s.passL) :
    PassOk t where
  pos := passL ▸ h.pos
  le := by rw [cfg, passL]; exact h.le
  valid := by rw [passL, win]; exact h.valid

theorem HostInv.of_view (h : HostInv s) (same : t.hostView = s.hostView) : HostInv t := by
  simp only [State.hostView, Prod.mk.injEq] at same
  obtain ⟨cfg, hsMem, head, count, busy, win, passL, conn, rx, valid, spec, m⟩ := same
  exact ⟨by rw [cfg, hsMem]; exact h.hsMem, by rw [cfg, win]; exact h.win, h.hs.of_eq cfg hsMem head count,
    fun hb => (h.pass (busy ▸ hb)).of_eq cfg win passL, by rw [rx, conn]; exact h.rx,
    by rw [valid, spec, m]; exact h.res⟩

/-- A change of the device half alone keeps the invariant if it keeps the device's part. -/
theorem StateInv.of_device (h : StateInv s) (same : t.hostView = s.hostView) (dev : DeviceInv s → DeviceInv t) :
    StateInv t := by
  obtain ⟨wf, d, u⟩ := stateInv_iff.1 h
  have cfg : t.cfg = s.cfg := congrArg Prod.fst same
  exact stateInv_iff.2 ⟨cfg ▸ wf, dev d, u.of_view same⟩

/-- A change of the host half alone keeps the invariant if it keeps the host's part. -/
theorem StateInv.of_host (h : StateInv s) (same : t.deviceView = s.deviceView) (host : HostInv s → HostInv t) :
    StateInv t := by
  obtain ⟨wf, d, u⟩ := stateInv_iff.1 h
  have cfg : t.cfg = s.cfg := congrArg Prod.fst same
  exact stateInv_iff.2 ⟨cfg ▸ wf, d.of_view same, host u⟩

/-- The links, the axes, the records and the program do not enter the invariant. -/
theorem StateInv.of_views (h : StateInv s) (device : t.deviceView = s.deviceView) (host : t.hostView = s.hostView) :
    StateInv t :=
  h.of_device host fun d => d.of_view device

end Sys2Proof.Machine

/-! ## The device half's operations keep its part of the invariant -/

namespace Sys2Proof.Machine

variable {s t : State}

/-- The registers of 10_state.md R48 that `DeviceInv` reads, as a reset leaves them. -/
theorem DeviceInv.of_cleared (wf : s.cfg.Wf) (mem : s.txMem = []) (head : s.txHead = 0) (tail : s.txTail = 0)
    (drain : s.txDrainEn = false) (fault : s.txFault = false) (ind : s.faultInd = false) (hsPos : s.hsPos = none)
    (convLo : s.convLo = none) : DeviceInv s := by
  obtain ⟨⟨-, two_le⟩, -⟩ := wf
  exact {
    txMem := mem ▸ memWithin_nil _
    tx := ⟨two_le, by omega, by omega, by simp [drain, head, tail]⟩
    ind := fun _ => ind.trans fault.symm
    hsPos := by simp [hsPos]
    convLo := by simp [convLo] }

theorem DeviceInv.txPush (h : DeviceInv s) (b : Byte) : DeviceInv (txPush b s) where
  txMem := by
    have cell : s.txPushCell < s.cfg.txN := Nat.mod_lt _ (by have := h.tx.two_le; omega)
    cases hf : txFull s with
    | true => simpa [txPush_eq, hf] using h.txMem
    | false => simpa [txPush_eq, hf] using h.txMem.memWrite b cell
  tx := h.tx.txPush b
  ind := by
    intro sticky
    rw [txPush_cfg] at sticky
    cases hf : txFull s with
    | true => simp [txPush_eq, hf, overflowInd, sticky]
    | false => simpa [txPush_eq, hf] using h.ind sticky
  hsPos := by simpa using h.hsPos
  convLo := by simpa using h.convLo

theorem DeviceInv.txPushAll (h : DeviceInv s) (bs : List Byte) : DeviceInv (txPushAll bs s) := by
  induction bs generalizing s with
  | nil => exact h
  | cons b bs ih => exact ih (h.txPush b)

theorem DeviceInv.txDrain (h : DeviceInv s) : DeviceInv (txDrain s) where
  txMem := by simpa using h.txMem
  tx := h.tx.txDrain
  ind := by simpa using h.ind
  hsPos := by simpa using h.hsPos
  convLo := by simpa using h.convLo

/-- The position kept after the `k`-th byte of the response is inside the response (10_state.md R41). -/
theorem DeviceInv.pushResponseByte (h : DeviceInv s) (k : Nat) (b : Byte) : DeviceInv (pushResponseByte k b s) := by
  have pushed := h.txPush b
  exact {
    txMem := pushed.txMem
    tx := pushed.tx.of_eq rfl rfl rfl rfl
    ind := pushed.ind
    convLo := pushed.convLo
    hsPos := fun j hj => by
      have bytes : response.length = 8 := rfl
      simp only [Machine.pushResponseByte, bytes, Option.ite_none_right_eq_some, Option.some.injEq] at hj
      omega }

/-- A low byte kept for a second push has its sync bit clear (10_state.md R41). -/
theorem DeviceInv.withConvLo (h : DeviceInv s) (lo : Option Byte) (sync : ∀ b, lo = some b → b.toNat < 128) :
    DeviceInv { s with convLo := lo } where
  txMem := h.txMem
  tx := h.tx.of_eq rfl rfl rfl rfl
  ind := h.ind
  hsPos := h.hsPos
  convLo := sync

theorem encLo_toNat_lt (v : Cell16) : (encLo v).toNat < 128 := by
  rw [encLo, BitVec.toNat_append]
  simpa using (v.extractLsb' 0 7).isLt

@[simp] theorem txPush_hostView (b : Byte) : (txPush b s).hostView = s.hostView := by simp [State.hostView]

theorem StateInv.txPush (h : StateInv s) (b : Byte) : StateInv (txPush b s) :=
  h.of_device (txPush_hostView b) fun d => d.txPush b

theorem StateInv.txPushAll (h : StateInv s) (bs : List Byte) : StateInv (txPushAll bs s) :=
  h.of_device (by rw [txPushAll_eq]; rfl) fun d => d.txPushAll bs

theorem StateInv.pushResponseByte (h : StateInv s) (k : Nat) (b : Byte) : StateInv (pushResponseByte k b s) :=
  h.of_device (txPush_hostView b) fun d => d.pushResponseByte k b

theorem StateInv.withConvLo (h : StateInv s) (lo : Option Byte) (sync : ∀ b, lo = some b → b.toNat < 128) :
    StateInv { s with convLo := lo } :=
  h.of_device rfl fun d => d.withConvLo lo sync

theorem StateInv.txDrain (h : StateInv s) : StateInv (txDrain s) :=
  h.of_device (by simp [State.hostView]) DeviceInv.txDrain

theorem StateInv.deviceReset (h : StateInv s) : StateInv (deviceReset s) :=
  h.of_device rfl fun _ => .of_cleared h.cfg rfl rfl rfl rfl rfl rfl rfl rfl

theorem StateInv.opDevReset {c : ResetCause} (h : StateInv s) (taken : opDevReset c s = .next t) : StateInv t := by
  cases c with
  | powerOn | linkOpen => cases taken; exact h.deviceReset
  | watchdog => cases taken; exact (h.of_views (t := raiseFault .watchdogReset s) rfl rfl).deviceReset

/-- A completed conversion pushes both bytes of its Frame, or the high one and keeps the low one
(40_frame_codec.md R121, 10_state.md R41). -/
theorem opConvDone_cases {v : Sample} (taken : opConvDone v s = .next t) :
    t = txPush (encLo v.toCell) (txPush (encHi v.toCell) { s with convPending := false }) ∨
      t = { txPush (encHi v.toCell) { s with convPending := false } with convLo := some (encLo v.toCell) } := by
  simp only [opConvDone] at taken
  split at taken
  · exact .inl (Host.Outcome.next.inj taken).symm
  · exact .inr (Host.Outcome.next.inj taken).symm

theorem StateInv.opConvDone {v : Sample} (h : StateInv s) (taken : opConvDone v s = .next t) : StateInv t := by
  have idle : StateInv { s with convPending := false } := h.of_views rfl rfl
  obtain whole | first := opConvDone_cases taken
  · exact whole ▸ (idle.txPush _).txPush _
  · exact first ▸ (idle.txPush _).withConvLo _ fun b kept => by cases kept; exact encLo_toNat_lt _

/-- A push written out ends a `CONV.DONE`, or goes on with a `CMD.HANDSHAKE` (10_state.md R41). -/
theorem opTxPush_cases {b : Byte} (taken : opTxPush b s = .next t) :
    t = { txPush b s with convLo := none } ∨ ∃ k, s.hsPos = some k ∧ t = pushResponseByte k b s := by
  unfold opTxPush at taken
  split at taken
  · exact .inl (Host.Outcome.next.inj taken).symm
  · split at taken
    · exact .inr ⟨_, ‹_›, (Host.Outcome.next.inj taken).symm⟩
    · cases taken

theorem StateInv.opTxPush {b : Byte} (h : StateInv s) (taken : opTxPush b s = .next t) : StateInv t := by
  obtain low | ⟨k, -, next⟩ := opTxPush_cases taken
  · exact low ▸ (h.txPush b).withConvLo none (by simp)
  · exact next ▸ h.pushResponseByte k b

theorem StateInv.opCmd {b : Byte} (h : StateInv s) (taken : opCmd b s = .next t) : StateInv t := by
  obtain ⟨a, r, axes⟩ | whole | first := opCmd_cases taken
  · exact axes ▸ h.of_views rfl rfl
  · exact whole ▸ h.txPushAll response
  · exact first ▸ h.pushResponseByte 0 _

end Sys2Proof.Machine

/-! ## The host half's operations keep its part of the invariant -/

namespace Sys2Proof.Machine

open Sys2Proof.Dsp

variable {s t : State}

/-- The registers of 10_state.md R48 that `HostInv` reads, as a reset leaves them; `pass_L` is not among them
(log 28). -/
theorem HostInv.of_cleared (wf : s.cfg.Wf) (mem : s.hsMem = []) (head : s.hsHead = 0) (count : s.hsCount = 0)
    (idle : s.dspBusy = false) (win : s.win = []) (rx : s.hsRx = []) (none_valid : s.resValid = false) : HostInv s := by
  obtain ⟨-, ⟨-, pos, -⟩, -⟩ := wf
  exact {
    hsMem := mem ▸ memWithin_nil _
    win := win ▸ memWithin_nil _
    hs := ⟨pos, by omega, by omega, by omega, by omega⟩
    pass := by simp [idle]
    rx := by simp [rx]
    res := by simp [none_valid] }

/-- Going back `j + 1` from the next index is going back `j` from this one (41_ring_buffers.md R149). -/
theorem ringSub_ringSucc {n i j : Nat} (hi : i < n) (hj : j < n) :
    ringSub n (ringSucc n i) (j + 1) = ringSub n i j := by
  have next_lt : ringSucc n i < n := Nat.mod_lt _ (by omega)
  rw [ringSub_succ_of_lt next_lt hj, ringSub_of_lt hi hj, ringSucc_of_lt hi]
  split_ifs <;> omega

theorem ringSub_ne_self {n i j : Nat} (hi : i < n) (pos : 0 < j) (hj : j < n) : ringSub n i j ≠ i := by
  rw [ringSub_of_lt hi hj]
  split_ifs <;> omega

theorem hsWriteCell_eq (h : HsOk s) : s.hsWriteCell = s.hsHead := Nat.mod_eq_of_lt h.head_lt

/-- A written Sample becomes the newest valid cell; the ones before it move one back (41_ring_buffers.md R146). -/
theorem HsOk.hsWrite (h : HsOk s) {v : Cell16} (sample : v.toNat ≤ 1023) : HsOk (hsWrite v s) := by
  have cell := hsWriteCell_eq h
  obtain ⟨pos, head_lt, count_le, head_eq, valid⟩ := h
  refine ⟨pos, Nat.mod_lt _ pos, Nat.min_le_right _ _, fun room => ?_, fun j hj => ?_⟩
  · simp only [hsWrite_hsCount, hsWrite_cfg, hsWrite_hsHead] at room ⊢
    rw [ringSucc_of_lt head_lt, head_eq (by omega), if_neg (by omega)]
    omega
  · simp only [hsWrite_hsCount, hsWrite_cfg, hsWrite_hsHead, hsWrite_hsMem, cell] at hj ⊢
    rw [ringSub_ringSucc head_lt (by omega)]
    cases j with
    | zero =>
      rw [ringSub_of_lt head_lt pos, if_pos (Nat.zero_le _)]
      exact ⟨v, memRead_memWrite_same .., sample⟩
    | succ j =>
      rw [memRead_memWrite_other _ _ (ringSub_ne_self head_lt j.succ_pos (by omega))]
      exact valid j (by omega)

theorem HostInv.hsWrite (h : HostInv s) {v : Cell16} (sample : v.toNat ≤ 1023) : HostInv (hsWrite v s) where
  hsMem := h.hsMem.memWrite v (Nat.mod_lt _ h.hs.pos)
  win := h.win
  hs := h.hs.hsWrite sample
  pass := fun busy => (h.pass busy).of_eq rfl rfl rfl
  rx := h.rx
  res := h.res

/-- The `j`-th of the `l` most recent Samples stands `l − j` cells behind the head (41_ring_buffers.md R147). -/
theorem recentCell_eq (h : HsOk s) {l j : Nat} (hl : l ≤ s.hsCount) (hj : j < l) :
    s.recentCell l j = ringSub s.cfg.hsN s.hsHead (l - 1 - j + 1) := by
  have head_lt := h.head_lt
  have count_le := h.count_le
  rw [State.recentCell, show l = l - 1 + 1 by omega, ringSub_succ_of_lt head_lt (by omega),
    ringSub_succ_of_lt head_lt (by omega), ringAdd_of_lt (by split_ifs <;> omega) (by omega)]
  split_ifs <;> omega

/-- An accepted request captures 1 to `W` valid Samples (43_backpressure.md R193). -/
theorem PassOk.bpAccept (h : HsOk s) (w_pos : 1 ≤ s.cfg.w) (some_valid : 1 ≤ s.hsCount) : PassOk (bpAccept s) where
  pos := le_min w_pos some_valid
  le := min_le_left _ _
  valid := fun j hj => by
    rw [bpAccept_passL] at hj
    obtain ⟨x, read, sample⟩ := h.valid (min s.cfg.w s.hsCount - 1 - j) (by omega)
    have captured := memRead_memWriteFrom_in (readRecent s (min s.cfg.w s.hsCount)) s.win 0 j (by simpa using hj)
    rw [Nat.zero_add, readRecent_getElem, recentCell_eq h (min_le_right _ _) hj, State.hsRead, read] at captured
    exact ⟨x, captured, sample⟩

theorem HostInv.bpAccept (h : HostInv s) (w_pos : 1 ≤ s.cfg.w) (some_valid : 1 ≤ s.hsCount) :
    HostInv (bpAccept s) where
  hsMem := h.hsMem
  win := h.win.memWriteFrom _ (by simp)
  hs := h.hs.of_eq rfl rfl rfl rfl
  pass := fun _ => .bpAccept h.hs w_pos some_valid
  rx := h.rx
  res := h.res

/-- A count changes the counter, and starts a pass or does nothing more (43_backpressure.md R191, R193, R194). -/
theorem bpCount_cases (s : State) :
    (∃ n, bpCount s = { s with bpCount := n }) ∨ bpCount s = bpAccept { s with bpCount := 0 } := by
  unfold bpCount bpReq
  split_ifs
  · exact .inl ⟨_, rfl⟩
  · exact .inr rfl
  · exact .inl ⟨_, rfl⟩

theorem HostInv.bpCount (h : HostInv s) (w_pos : 1 ≤ s.cfg.w) (some_valid : 1 ≤ s.hsCount) : HostInv (bpCount s) := by
  obtain ⟨n, eq⟩ | eq := bpCount_cases s <;> rw [eq]
  · exact h.of_view rfl
  · exact (h.of_view (t := { s with bpCount := 0 }) rfl).bpAccept w_pos some_valid

/-- Of the session, the invariant asks for the collector's length alone (10_state.md R40). -/
theorem HostInv.withSession (h : HostInv s) (rx : List Byte) (c : Conn)
    (room : rx.length ≤ 8 ∧ (c = .handshaking → rx.length < 8)) : HostInv { s with hsRx := rx, hConn := c } where
  hsMem := h.hsMem
  win := h.win
  hs := h.hs.of_eq rfl rfl rfl rfl
  pass := fun busy => (h.pass busy).of_eq rfl rfl rfl
  rx := room
  res := h.res

/-- A session that ends leaves the collector as it is (42_command_channel.md R176 to R178). -/
theorem HostInv.withConn (h : HostInv s) {c : Conn} (not_waiting : c ≠ .handshaking) : HostInv { s with hConn := c } :=
  h.withSession s.hsRx c ⟨h.rx.1, fun waiting => absurd waiting not_waiting⟩

/-- A collected byte leaves room for the next while the host is still handshaking (42_command_channel.md R173). -/
theorem HostInv.collectHandshake (h : HostInv s) (b : Byte) (waiting : s.hConn = .handshaking) :
    HostInv (collectHandshake b s) := by
  have room := h.rx.2 waiting
  refine (h.withSession (Machine.collectHandshake b s).hsRx (Machine.collectHandshake b s).hConn ?_).of_view ?_
  · simp only [collectHandshake_eq, List.length_append, List.length_singleton]
    refine ⟨by omega, fun still => ?_⟩
    split_ifs at still
    omega
  · rw [collectHandshake_eq]
    rfl

theorem idealPass_spec_length (a : RealParams) (p : Params) (r : List Nat) (fs : Rate) :
    (idealPass a p r fs).spec.length = (idealPass a p r fs).m / 2 := by
  unfold idealPass passOfVolts
  split_ifs
  · rfl
  · simp [Dsp.spectrum]

/-- What `NUM` gives for a window the block can capture has half as many bins as its FFT size, none negative
(44_dsp_pipeline.md R208, R221). -/
theorem num_pass_bins {p : Params} (wf : p.Wf) {r : List Nat} (window : IsWindow p r) (fs : Rate) :
    (Config.num.pass p r fs).spec.length = (Config.num.pass p r fs).m / 2 ∧
      ∀ x ∈ (Config.num.pass p r fs).spec, 0 ≤ x := by
  have conforms := Config.num.eps_bounds.conforms p r fs wf window
  exact ⟨by rw [conforms.spec.length, idealPass_spec_length, conforms.m], conforms.nonneg⟩

theorem HostInv.publish (h : HostInv s) {r : PassResult ℚ} (bins : r.spec.length = r.m / 2 ∧ ∀ x ∈ r.spec, 0 ≤ x) :
    HostInv (publish r s) where
  hsMem := h.hsMem
  win := h.win
  hs := h.hs.of_eq rfl rfl rfl rfl
  pass := by simp
  rx := h.rx
  res := fun _ => bins

theorem assemble_toCell_le (h : BitVec 3) (l : BitVec 7) : (assemble h l).toCell.toNat ≤ 1023 := by
  have := (assemble h l).isLt
  rw [BitVec.toNat_setWidth]
  exact (Nat.mod_le _ _).trans (by omega)

/-- A delivered Sample is written, which makes the ring non-empty, and then counted (40_frame_codec.md R124). -/
theorem StateInv.bpCount_hsWrite (h : StateInv s) {v : Cell16} (sample : v.toNat ≤ 1023) :
    StateInv (bpCount (hsWrite v s)) := by
  obtain ⟨-, ⟨-, hsN_pos, -⟩, w_pos, -⟩ := h.cfg
  have some_valid : 1 ≤ (hsWrite v s).hsCount := le_min (Nat.le_add_left 1 _) hsN_pos
  exact h.of_host (by simp [State.deviceView]) fun u => (u.hsWrite sample).bpCount w_pos some_valid

theorem StateInv.opHostRx {b : Byte} (h : StateInv s) (taken : opHostRx b s = .next t) : StateInv t := by
  obtain rfl | ⟨waiting, rfl⟩ | ⟨-, d, p, rfl⟩ | ⟨-, l, rfl⟩ := opHostRx_cases taken
  · exact h
  · exact h.of_host (by rw [collectHandshake_eq]; rfl) fun u => u.collectHandshake b waiting
  · exact h.of_views rfl rfl
  · exact (h.of_views (t := { s with decPending := false }) rfl rfl).bpCount_hsWrite (assemble_toCell_le _ _)

theorem StateInv.opDspDone (h : StateInv s) (busy : s.dspBusy = true) (taken : opDspDone s = .next t) : StateInv t := by
  cases taken
  exact h.of_host rfl fun u => u.publish (num_pass_bins h.cfg (rawWindow_isWindow (h.pass busy)) _)

theorem StateInv.hostHalfReset (h : StateInv s) : StateInv (hostHalfReset s) :=
  h.of_host rfl fun _ => .of_cleared h.cfg rfl rfl rfl rfl rfl rfl rfl

theorem StateInv.opHostSend {c : HostCmd} (h : StateInv s) (taken : opHostSend c s = .next t) : StateInv t := by
  cases taken
  exact h.of_views (by cases c <;> rfl) (by cases c <;> rfl)

theorem StateInv.opHostConnect (h : StateInv s) (taken : opHostConnect s = .next t) : StateInv t := by
  cases taken
  exact h.of_host rfl fun u => (u.withSession [] .handshaking (by simp)).of_view rfl

theorem StateInv.failClosed (h : StateInv s) (f : Raised) : StateInv (failClosed f s) :=
  h.of_host rfl fun u => (u.withConn (c := .failed) (by simp)).of_view rfl

end Sys2Proof.Machine

/-! ## Every step keeps the invariant, and reset has it -/

namespace Sys2Proof.Machine

variable {s t : State}

theorem StateInv.opLinkD2h {act : LinkAct} (h : StateInv s) (taken : opLinkD2h act s = .next t) : StateInv t := by
  cases queue : s.linkD2h with
  | nil => simp [Machine.opLinkD2h, queue] at taken
  | cons b rest =>
    have popped : StateInv { s with linkD2h := rest } := h.of_views rfl rfl
    simp only [Machine.opLinkD2h, queue] at taken
    cases act with
    | deliver | garble => exact popped.opHostRx taken
    | drop => cases taken; exact popped

theorem StateInv.opLinkH2d {act : LinkAct} (h : StateInv s) (taken : opLinkH2d act s = .next t) : StateInv t := by
  cases queue : s.linkH2d with
  | nil => simp [Machine.opLinkH2d, queue] at taken
  | cons b rest =>
    have popped : StateInv { s with linkH2d := rest } := h.of_views rfl rfl
    simp only [Machine.opLinkH2d, queue] at taken
    cases act with
    | deliver | garble => exact popped.opCmd taken
    | drop => cases taken; exact popped

/-- An operation taken where it is enabled keeps the invariant. -/
theorem StateInv.perform {e : Event} (h : StateInv s) (done : perform e s = .next t) : StateInv t := by
  obtain ⟨on, taken⟩ := perform_next done
  cases e with
  | devReset c => exact h.opDevReset taken
  | hostReset => cases taken; exact h.hostHalfReset
  | tick => cases taken; exact h.of_views rfl rfl
  | convDone v => exact h.opConvDone taken
  | txPush b => exact h.opTxPush taken
  | txDrain => cases taken; exact h.txDrain
  | linkD2h act => exact h.opLinkD2h taken
  | linkH2d act => exact h.opLinkH2d taken
  | cmd b => exact h.opCmd taken
  | hostSend c => exact h.opHostSend taken
  | hostConnect => exact h.opHostConnect taken
  | hostTimeout | hostXfault => cases taken; exact h.failClosed _
  | hostDisconnect => cases taken; exact h.of_host rfl fun u => u.withConn (by simp)
  | hostRx b => exact h.opHostRx taken
  | hsReadRecent l => cases taken; exact h
  | dspDone => exact h.opDspDone on taken
  | setGrain g => cases taken; exact h.of_views rfl rfl

/-- A step performs the next line of the program, or an operation drawn, or makes a draw and nothing more
(60_exceptions.md R262; logs 1, 2). -/
theorem step_cases (stepped : step s = .next t) :
    (∃ e rest, s.trace = e :: rest ∧ perform e { s with trace := rest } = .next t) ∨
      (∃ e, e.ofAgent = true ∧ perform e { s with draws := s.draws + 1 } = .next t) ∨
      t = { s with draws := s.draws + 1 } := by
  unfold step takeNext at stepped
  split at stepped
  · exact .inl ⟨_, _, ‹_›, stepped⟩
  · dsimp only at stepped
    split at stepped
    · exact .inr (.inl ⟨_, (Bool.and_eq_true_iff.1 ‹_›).1, stepped⟩)
    · exact .inr (.inr (Host.Outcome.next.inj stepped).symm)

/-- Settles O55: the invariant reads neither the program nor the count of draws, and every operation a step can perform
keeps it. -/
theorem everyStepKeepsInv : Obligations.EveryStepKeepsInv := by
  unfold Obligations.EveryStepKeepsInv
  intro s t h stepped
  have drawn : StateInv { s with draws := s.draws + 1 } := h.of_views rfl rfl
  obtain ⟨e, rest, -, done⟩ | ⟨e, -, done⟩ | idle := step_cases stepped
  · exact (h.of_views (t := { s with trace := rest }) rfl rfl).perform done
  · exact drawn.perform done
  · exact idle ▸ drawn

/-- Settles O29: the counter is cleared where the threshold is reached, and is still below it after counting where not. -/
theorem countStaysBelowThreshold : Obligations.CountStaysBelowThreshold := by
  unfold Obligations.CountStaysBelowThreshold
  intro s pos
  rw [bpCount_eq]
  cases hit : thresholdHit s with
  | true => exact pos
  | false => simpa [thresholdHit] using hit

/-- Settles O49: each register of the table, by its value in `State.reset`. -/
theorem resetTable : Obligations.ResetTable := by
  unfold Obligations.ResetTable
  exact ⟨by decide, by decide, by decide, fun _ => ⟨rfl, rfl, rfl⟩⟩

theorem stateInv_reset_of_wf {p : Params} (wf : p.Wf) :
    StateInv { State.reset with cfg := p, rate := p.resetRate, hRate := p.resetRate } :=
  stateInv_iff.2 ⟨wf, .of_cleared wf rfl rfl rfl rfl rfl rfl rfl rfl, .of_cleared wf rfl rfl rfl rfl rfl rfl rfl⟩

/-- Settles O56: the cleared registers meet the invariant under any parameters that meet their constraints; those of
`State.reset` are one choice of them. -/
theorem resetHasInv : Obligations.ResetHasInv := by
  unfold Obligations.ResetHasInv
  exact ⟨stateInv_reset_of_wf (p := Params.testInstance) (by decide), fun _ => stateInv_reset_of_wf⟩

end Sys2Proof.Machine

/-! ## The link and the byte at the front of a queue -/

namespace Sys2Proof.Machine

variable {s : State} {b : Byte} {q : List Byte}

theorem linkAllows_drop {m : LinkModel} : linkAllows m .drop = true ↔ m ≠ .lossless := by
  cases m <;> simp [linkAllows]

theorem linkAllows_garble {m : LinkModel} (b' : Byte) : linkAllows m (.garble b') = true ↔ m = .noisy := by
  cases m <;> simp [linkAllows]

/-- A step `LINK_MODEL` does not allow is enabled on neither queue (20_memory.md R70). -/
theorem perform_link_of_not_allowed {act : LinkAct} (barred : ¬ linkAllows s.cfg.linkModel act = true) :
    perform (.linkD2h act) s = .fault .notEnabled ∧ perform (.linkH2d act) s = .fault .notEnabled := by
  refine ⟨perform_of_not_enabled (by simp [enabled, barred]), perform_of_not_enabled ?_⟩
  cases act with
  | deliver | drop | garble => simp [enabled, barred]

theorem perform_linkD2h_of_empty (empty : s.linkD2h = []) (act : LinkAct) :
    perform (.linkD2h act) s = .fault .notEnabled :=
  perform_of_not_enabled (by simp [enabled, empty])

theorem perform_linkH2d_of_empty (empty : s.linkH2d = []) (act : LinkAct) :
    perform (.linkH2d act) s = .fault .notEnabled :=
  perform_of_not_enabled (Bool.eq_false_iff.2 fun on => linkH2d_ne_nil_of_enabled on empty)

/-! ### Towards the host: the host takes a byte in every state -/

theorem perform_linkD2h_of_front (front : s.linkD2h = b :: q) {act : LinkAct}
    (allowed : linkAllows s.cfg.linkModel act = true) : perform (.linkD2h act) s = opLinkD2h act s :=
  perform_of_enabled (by simp [enabled, front, allowed])

theorem perform_linkD2h_deliver (front : s.linkD2h = b :: q) :
    perform (.linkD2h .deliver) s = perform (.hostRx b) { s with linkD2h := q } := by
  rw [perform_linkD2h_of_front front rfl, opLinkD2h, front]
  rfl

theorem perform_linkD2h_drop (front : s.linkD2h = b :: q) (lossy : s.cfg.linkModel ≠ .lossless) :
    perform (.linkD2h .drop) s = .next { s with linkD2h := q } := by
  rw [perform_linkD2h_of_front front (linkAllows_drop.2 lossy), opLinkD2h, front]

theorem perform_linkD2h_garble (front : s.linkD2h = b :: q) (noisy : s.cfg.linkModel = .noisy) (b' : Byte) :
    perform (.linkD2h (.garble b')) s = perform (.hostRx b') { s with linkD2h := q } := by
  rw [perform_linkD2h_of_front front ((linkAllows_garble b').2 noisy), opLinkD2h, front]
  rfl

/-! ### Towards the device: a byte is delivered, changed or not, when the device is ready for a command -/

theorem perform_linkH2d_deliver (front : s.linkH2d = b :: q) :
    perform (.linkH2d .deliver) s = perform (.cmd b) { s with linkH2d := q } := by
  simp [perform, enabled, linkAllows, cmdReady, take, opLinkH2d, front]

theorem perform_linkH2d_drop (front : s.linkH2d = b :: q) (lossy : s.cfg.linkModel ≠ .lossless) :
    perform (.linkH2d .drop) s = .next { s with linkH2d := q } := by
  simp [perform, enabled, take, opLinkH2d, front, linkAllows_drop.2 lossy]

theorem perform_linkH2d_garble (front : s.linkH2d = b :: q) (noisy : s.cfg.linkModel = .noisy) (b' : Byte) :
    perform (.linkH2d (.garble b')) s = perform (.cmd b') { s with linkH2d := q } := by
  simp [perform, enabled, cmdReady, take, opLinkH2d, front, (linkAllows_garble b').2 noisy]

/-- Settles O59, by one lemma for each step of each queue and one for each reason a step is not enabled. -/
theorem linkActsOnTheFrontByte : Obligations.LinkActsOnTheFrontByte := by
  unfold Obligations.LinkActsOnTheFrontByte
  refine fun b q s => ⟨fun front => ?towardsHost, fun front => ?towardsDevice, fun lossless => ?noDrop,
    perform_linkD2h_of_empty, perform_linkH2d_of_empty, fun quiet b' => ?noGarble⟩
  case towardsHost =>
    exact ⟨perform_linkD2h_deliver front, perform_linkD2h_drop front, perform_linkD2h_garble front⟩
  case towardsDevice =>
    exact ⟨perform_linkH2d_deliver front, perform_linkH2d_drop front, perform_linkH2d_garble front⟩
  case noDrop => exact perform_link_of_not_allowed fun allowed => linkAllows_drop.1 allowed lossless
  case noGarble => exact perform_link_of_not_allowed fun allowed => quiet ((linkAllows_garble b').1 allowed)

end Sys2Proof.Machine

/-! ## Who writes `tx_fault`, the axes and the results

`Wrote e s t` lists what an operation can do to the registers with named writers (20_memory.md R79, 10_state.md R25,
R42) and whose right it is. It is proved once, an operation at a time; each claim about a writer is then read off it. -/

namespace Sys2Proof.Machine

variable {e : Event} {s t : State}

/-- The result registers (10_state.md R42). -/
def State.results (s : State) := (s.resValid, s.resSpec, s.resM, s.resFs, s.resStats)

/-- The acquisition axis and the rate axis of the device (10_state.md R30, R31). -/
def State.axes (s : State) := (s.acq, s.rate)

/-- The operation hands the device a command byte, raised on the port or taken from the link. -/
abbrev Event.TakesCommand (e : Event) : Prop :=
  (∃ b, e = .cmd b) ∨ e = .linkH2d .deliver ∨ ∃ b, e = .linkH2d (.garble b)

/-- The operation pushes bytes of a Frame or of a response in progress. -/
abbrev Event.Pushes (e : Event) : Prop := (∃ v, e = .convDone v) ∨ ∃ b, e = .txPush b

/-- What an operation that completed can have done to the parameters and the registers with named writers. -/
inductive Wrote (e : Event) (s t : State) : Prop where
  | nothing (cfg : t.cfg = s.cfg) (fault : t.txFault = s.txFault) (axes : t.axes = s.axes)
      (results : t.results = s.results)
  | push (who : e.Pushes) (cfg : t.cfg = s.cfg) (fault : s.txFault = true → t.txFault = true) (axes : t.axes = s.axes)
      (results : t.results = s.results)
  | command (who : e.TakesCommand) (cfg : t.cfg = s.cfg) (fault : s.txFault = true → t.txFault = true)
      (results : t.results = s.results)
  | deviceReset (who : ∃ c, e = .devReset c) (cfg : t.cfg = s.cfg) (results : t.results = s.results)
  | results (who : e = .dspDone ∨ e = .hostReset) (cfg : t.cfg = s.cfg) (fault : t.txFault = s.txFault)
      (axes : t.axes = s.axes)

/-! ### The pushes -/

@[simp] theorem txPush_axes (b : Byte) : (txPush b s).axes = s.axes := by simp [State.axes]

@[simp] theorem txPush_results (b : Byte) : (txPush b s).results = s.results := by simp [State.results]

/-- A push sets `tx_fault` or leaves it: none clears it (10_state.md R25). -/
theorem txFault_txPush (b : Byte) (set : s.txFault = true) : (txPush b s).txFault = true := by
  simp [txPush_eq, set]

theorem txFault_txPushAll (bs : List Byte) (set : s.txFault = true) : (txPushAll bs s).txFault = true := by
  induction bs generalizing s with
  | nil => exact set
  | cons b bs ih => exact ih (txFault_txPush b set)

theorem txPushAll_cfg (bs : List Byte) : (txPushAll bs s).cfg = s.cfg := by rw [txPushAll_eq]

theorem txPushAll_results (bs : List Byte) : (txPushAll bs s).results = s.results := by
  rw [txPushAll_eq]
  rfl

theorem wrote_opConvDone {v : Sample} (taken : opConvDone v s = .next t) : Wrote (.convDone v) s t := by
  obtain rfl | rfl := opConvDone_cases taken
  · exact .push (.inl ⟨v, rfl⟩) (by simp) (fun set => txFault_txPush _ (txFault_txPush _ set))
      ((txPush_axes _).trans (txPush_axes _)) ((txPush_results _).trans (txPush_results _))
  · exact .push (.inl ⟨v, rfl⟩) (txPush_cfg _ _) (fun set => txFault_txPush _ set) (txPush_axes _) (txPush_results _)

theorem wrote_opTxPush {b : Byte} (taken : opTxPush b s = .next t) : Wrote (.txPush b) s t := by
  obtain rfl | ⟨k, -, rfl⟩ := opTxPush_cases taken
  all_goals exact .push (.inr ⟨b, rfl⟩) (txPush_cfg _ _) (txFault_txPush b) (txPush_axes b) (txPush_results b)

/-! ### A byte received by a half -/

/-- A command byte sets an axis, or pushes a response, whichever operation handed it over
(42_command_channel.md R160). -/
theorem wrote_opCmd {b : Byte} (who : e.TakesCommand) (taken : opCmd b s = .next t) : Wrote e s t := by
  obtain ⟨a, r, axes⟩ | whole | first := opCmd_cases taken
  · rw [axes]; exact .command who rfl id rfl
  · rw [whole]
    exact .command who (txPushAll_cfg _) (txFault_txPushAll response) (txPushAll_results _)
  · rw [first]; exact .command who (txPush_cfg _ _) (txFault_txPush _) (txPush_results _)

/-- A byte the host receives writes none of these registers, whichever operation handed it over. -/
theorem wrote_opHostRx {b : Byte} (taken : opHostRx b s = .next t) : Wrote e s t := by
  obtain rfl | ⟨-, rfl⟩ | ⟨-, d, p, rfl⟩ | ⟨-, l, rfl⟩ := opHostRx_cases taken
  · exact .nothing rfl rfl rfl rfl
  · rw [collectHandshake_eq]; exact .nothing rfl rfl rfl rfl
  · exact .nothing rfl rfl rfl rfl
  · rw [bpCount_eq]; exact .nothing rfl rfl rfl rfl

/-- Taking a byte off a link queue is no write to these registers. -/
theorem Wrote.of_popped {d u : List Byte} (h : Wrote e { s with linkD2h := d, linkH2d := u } t) : Wrote e s t := by
  cases h with
  | nothing cfg fault axes results => exact .nothing cfg fault axes results
  | push who cfg fault axes results => exact .push who cfg fault axes results
  | command who cfg fault results => exact .command who cfg fault results
  | deviceReset who cfg results => exact .deviceReset who cfg results
  | results who cfg fault axes => exact .results who cfg fault axes

theorem wrote_opLinkD2h {act : LinkAct} (taken : opLinkD2h act s = .next t) : Wrote (.linkD2h act) s t := by
  cases queue : s.linkD2h with
  | nil => simp [opLinkD2h, queue] at taken
  | cons b rest =>
    simp only [opLinkD2h, queue] at taken
    cases act with
    | deliver | garble => exact (wrote_opHostRx taken).of_popped
    | drop => cases taken; exact .nothing rfl rfl rfl rfl

theorem wrote_opLinkH2d {act : LinkAct} (taken : opLinkH2d act s = .next t) : Wrote (.linkH2d act) s t := by
  cases queue : s.linkH2d with
  | nil => simp [opLinkH2d, queue] at taken
  | cons b rest =>
    simp only [opLinkH2d, queue] at taken
    cases act with
    | deliver => exact (wrote_opCmd (.inr (.inl rfl)) taken).of_popped
    | garble b' => exact (wrote_opCmd (.inr (.inr ⟨b', rfl⟩)) taken).of_popped
    | drop => cases taken; exact .nothing rfl rfl rfl rfl

/-! ### Every operation -/

theorem wrote_opDevReset {c : ResetCause} (taken : opDevReset c s = .next t) : Wrote (.devReset c) s t := by
  cases c with
  | powerOn | watchdog | linkOpen => cases taken; exact .deviceReset ⟨_, rfl⟩ rfl rfl

/-- A command sent is noted in the host's own copy of the configuration (42_command_channel.md R170). -/
theorem wrote_opHostSend {c : HostCmd} (taken : opHostSend c s = .next t) : Wrote e s t := by
  cases taken
  cases c with
  | start | stop | rate1 | rate10 | rate20 => exact .nothing rfl rfl rfl rfl

theorem perform_wrote (done : perform e s = .next t) : Wrote e s t := by
  obtain ⟨-, taken⟩ := perform_next done
  cases e with
  | devReset c => exact wrote_opDevReset taken
  | convDone v => exact wrote_opConvDone taken
  | txPush b => exact wrote_opTxPush taken
  | linkD2h act => exact wrote_opLinkD2h taken
  | linkH2d act => exact wrote_opLinkH2d taken
  | cmd b => exact wrote_opCmd (.inl ⟨b, rfl⟩) taken
  | hostRx b => exact wrote_opHostRx taken
  | hostSend c => exact wrote_opHostSend taken
  | dspDone => cases taken; exact .results (.inl rfl) rfl rfl rfl
  | hostReset => cases taken; exact .results (.inr rfl) rfl rfl rfl
  | txDrain => cases taken; rw [txDrain_eq]; exact .nothing rfl rfl rfl rfl
  | tick | hostConnect | hostTimeout | hostDisconnect | hostXfault | hsReadRecent | setGrain =>
    cases taken; exact .nothing rfl rfl rfl rfl

/-! ### Each register's writers -/

theorem Wrote.cfg_eq (h : Wrote e s t) : t.cfg = s.cfg := by cases h <;> assumption

theorem Wrote.txFault_writer (h : Wrote e s t) (changed : t.txFault ≠ s.txFault) :
    e.Pushes ∨ e.TakesCommand ∨ ∃ c, e = .devReset c := by
  cases h with
  | nothing _ fault | results _ _ fault => exact absurd fault changed
  | push who => exact .inl who
  | command who => exact .inr (.inl who)
  | deviceReset who => exact .inr (.inr who)

theorem Wrote.txFault_cleared (h : Wrote e s t) (before : s.txFault = true) (after : t.txFault = false) :
    ∃ c, e = .devReset c := by
  cases h with
  | nothing _ fault | results _ _ fault => simp [fault, before] at after
  | push _ _ fault | command _ _ fault => simp [fault before] at after
  | deviceReset who => exact who

theorem Wrote.results_writer (h : Wrote e s t) (changed : t.results ≠ s.results) : e = .dspDone ∨ e = .hostReset := by
  cases h with
  | nothing _ _ _ same | push _ _ _ _ same | command _ _ _ same | deviceReset _ _ same => exact absurd same changed
  | results who => exact who

theorem Wrote.axes_writer (h : Wrote e s t) (changed : t.acq ≠ s.acq ∨ t.rate ≠ s.rate) :
    e.TakesCommand ∨ ∃ c, e = .devReset c := by
  cases h with
  | nothing _ _ axes | push _ _ _ axes | results _ _ _ axes =>
    obtain ⟨acq, rate⟩ := Prod.mk.inj axes
    exact absurd changed (by simp [acq, rate])
  | command who => exact .inl who
  | deviceReset who => exact .inr who

/-- Settles O58: each register's writers, read off what every operation can have written. -/
theorem onlyTheNamedWritersWrite : Obligations.OnlyTheNamedWritersWrite := by
  unfold Obligations.OnlyTheNamedWritersWrite
  intro e s t done
  have wrote := perform_wrote done
  refine ⟨fun changed => ?_, wrote.txFault_cleared, wrote.results_writer, fun changed => ?_, wrote.cfg_eq⟩
  · simpa only [or_assoc] using wrote.txFault_writer changed
  · simpa only [or_assoc] using wrote.axes_writer changed

end Sys2Proof.Machine

/-! ## Bytes and operations, in each format

Format by format, the decoder inverts the encoder on the operations the format reads, and the encoder inverts the decoder
on every byte. -/

namespace Sys2Proof

open Sys2Proof.Machine

/-! ### The command format -/

@[simp] theorem decode_cmd_cons (b : Byte) (rest : List Byte) :
    decode .cmd (b :: rest) = .ok (decodeCommand b, rest) := rfl

/-- The bytes that are no defined opcode are `CMD.IGNORE` (30_encoding.md R100 item 1). -/
theorem decodeCommand_of_not_mem {b : Byte} (hb : b ∉ commandOpcodes) : decodeCommand b = .cmdIgnore b := by
  simp only [commandOpcodes, List.mem_cons, List.not_mem_nil, or_false, not_or] at hb
  obtain ⟨start, stop, rate1, rate10, rate20, handshake⟩ := hb
  simp [decodeCommand, start, stop, rate1, rate10, rate20, handshake]

theorem wellFormed_cmdIgnore {op : Byte} : (Instr.cmdIgnore op).wellFormed = true ↔ op ∉ commandOpcodes := by
  simp [Instr.wellFormed]

theorem readIn_cmd (i : Instr) : i.readIn .cmd = i.isCommand := by cases i <;> rfl

theorem decodeCommand_encodeByte {i : Instr} (command : i.isCommand = true) (wf : i.wellFormed = true) :
    decodeCommand (encodeByte i) = i := by
  cases i with
  | cmdStart | cmdStop | cmdRate1 | cmdRate10 | cmdRate20 | cmdHandshake => rfl
  | cmdIgnore op => exact decodeCommand_of_not_mem (wellFormed_cmdIgnore.1 wf)
  | decHi | decLo | decDrop => cases command

/-- The six opcodes of 30_encoding.md R98, one by one. -/
theorem decodeCommand_opcode : ∀ b ∈ commandOpcodes,
    (decodeCommand b).wellFormed = true ∧ encodeByte (decodeCommand b) = b := by decide

theorem decodeCommand_wellFormed (b : Byte) : (decodeCommand b).wellFormed = true := by
  by_cases hb : b ∈ commandOpcodes
  · exact (decodeCommand_opcode b hb).1
  · exact decodeCommand_of_not_mem hb ▸ wellFormed_cmdIgnore.2 hb

theorem encodeByte_decodeCommand (b : Byte) : encodeByte (decodeCommand b) = b := by
  by_cases hb : b ∈ commandOpcodes
  · exact (decodeCommand_opcode b hb).2
  · rw [decodeCommand_of_not_mem hb, encodeByte]

/-! ### The data-stream formats -/

@[simp] theorem decode_data_cons (pending : Bool) (b : Byte) (rest : List Byte) :
    decode (.data pending) (b :: rest) = .ok (decodeData pending b, rest) := rfl

theorem decodeData_encodeByte {i : Instr} {pending : Bool} (read : i.readIn (.data pending) = true) :
    decodeData pending (encodeByte i) = i := by
  cases i with
  | decHi pad h => exact decodeData_encodeByte_decHi pending pad h
  | decLo l =>
    have isPending : pending = true := read
    rw [encodeByte, decodeData_sync_zero, if_pos isPending]
  | decDrop l =>
    have idle : pending = false := by simpa [Instr.readIn] using read
    rw [encodeByte, decodeData_sync_zero, if_neg (by simp [idle])]
  | cmdStart | cmdStop | cmdRate1 | cmdRate10 | cmdRate20 | cmdHandshake | cmdIgnore => cases read

/-- What a data-stream byte decodes to, by its sync bit and the decoder's state (30_encoding.md R92, R99). -/
theorem decodeData_cases (pending : Bool) (b : Byte) :
    (b.getLsbD 7 = true ∧ decodeData pending b = .decHi (b.extractLsb' 3 4) (b.extractLsb' 0 3)) ∨
    (b.getLsbD 7 = false ∧ pending = true ∧ decodeData pending b = .decLo (b.extractLsb' 0 7)) ∨
    (b.getLsbD 7 = false ∧ pending = false ∧ decodeData pending b = .decDrop (b.extractLsb' 0 7)) := by
  cases sync : b.getLsbD 7 with
  | true => exact .inl ⟨rfl, if_pos sync⟩
  | false =>
    have noSync := Bool.eq_false_iff.1 sync
    cases pending with
    | true => exact .inr (.inl ⟨rfl, rfl, if_neg noSync⟩)
    | false => exact .inr (.inr ⟨rfl, rfl, if_neg noSync⟩)

theorem decodeData_wellFormed (pending : Bool) (b : Byte) : (decodeData pending b).wellFormed = true := by
  obtain ⟨-, dec⟩ | ⟨-, -, dec⟩ | ⟨-, -, dec⟩ := decodeData_cases pending b <;> rw [dec] <;> rfl

theorem decodeData_readIn (pending : Bool) (b : Byte) : (decodeData pending b).readIn (.data pending) = true := by
  obtain ⟨-, dec⟩ | ⟨-, state, dec⟩ | ⟨-, state, dec⟩ := decodeData_cases pending b <;> rw [dec]
  · rfl
  · exact state
  · simp [Instr.readIn, state]

/-- The sync bit as the leading field of a byte's layout (30_encoding.md R92). -/
theorem extractLsb'_sync (b : Byte) : b.extractLsb' 7 1 = BitVec.ofBool (b.getLsbD 7) := by
  refine BitVec.eq_of_getLsbD_eq fun i hi => ?_
  obtain rfl : i = 0 := by omega
  simp

/-- The two fields of the layout `DLO` make the byte again (30_encoding.md R92). -/
theorem sync_append_low (b : Byte) : BitVec.ofBool (b.getLsbD 7) ++ b.extractLsb' 0 7 = b := by
  rw [← extractLsb'_sync, BitVec.extractLsb'_append_extractLsb'_eq_extractLsb' (show 7 = 0 + 7 from rfl)]
  exact BitVec.extractLsb'_eq_self

/-- The three fields of the layout `DHI` make the byte again (30_encoding.md R92). -/
theorem sync_append_pad_append_high (b : Byte) :
    BitVec.ofBool (b.getLsbD 7) ++ b.extractLsb' 3 4 ++ b.extractLsb' 0 3 = b := by
  rw [← extractLsb'_sync, BitVec.extractLsb'_append_extractLsb'_eq_extractLsb' (show 7 = 3 + 4 from rfl),
    BitVec.extractLsb'_append_extractLsb'_eq_extractLsb' (show 3 = 0 + 3 from rfl)]
  exact BitVec.extractLsb'_eq_self

theorem encodeByte_decodeData (pending : Bool) (b : Byte) : encodeByte (decodeData pending b) = b := by
  have twoFields := sync_append_low b
  have threeFields := sync_append_pad_append_high b
  obtain ⟨sync, dec⟩ | ⟨sync, -, dec⟩ | ⟨sync, -, dec⟩ := decodeData_cases pending b <;> rw [dec]
  · rwa [sync] at threeFields
  · rwa [sync] at twoFields
  · rwa [sync] at twoFields

/-! ### The statements of the family -/

/-- Settles O1: in the format it is read in, each format's decoder inverts the encoder. -/
theorem decodeOfEncode : Obligations.DecodeOfEncode := by
  unfold Obligations.DecodeOfEncode
  intro i f rest wf read
  rw [encode, List.singleton_append]
  cases f with
  | cmd => rw [decode_cmd_cons, decodeCommand_encodeByte (readIn_cmd i ▸ read) wf]
  | data pending => rw [decode_data_cons, decodeData_encodeByte read]

/-- Settles O2: the operation is what the format's decoder reads. -/
theorem everyByteDecodesAndEncodesBack : Obligations.EveryByteDecodesAndEncodesBack := by
  unfold Obligations.EveryByteDecodesAndEncodesBack
  intro f b rest
  cases f with
  | cmd =>
    have read := (readIn_cmd (decodeCommand b)).trans (decodeCommand_isCommand b)
    exact ⟨_, decode_cmd_cons b rest, decodeCommand_wellFormed b, read, congrArg ([·]) (encodeByte_decodeCommand b)⟩
  | data pending =>
    exact ⟨_, decode_data_cons pending b rest, decodeData_wellFormed pending b, decodeData_readIn pending b,
      congrArg ([·]) (encodeByte_decodeData pending b)⟩

/-- Settles O3: each word is the encoding of the operation it stands for, so O1 reads it back. -/
theorem specWordsDecode : Obligations.SpecWordsDecode := by
  unfold Obligations.SpecWordsDecode
  exact ⟨decodeOfEncode .cmdStart .cmd [] rfl rfl, decodeOfEncode .cmdRate10 .cmd [] rfl rfl,
    decodeOfEncode .cmdHandshake .cmd [] rfl rfl, decodeOfEncode (.decHi 0b0000#4 0b101#3) (.data true) [] rfl rfl,
    decodeOfEncode (.decLo 0b0101010#7) (.data true) [] rfl rfl,
    decodeOfEncode (.decDrop 0b0101010#7) (.data false) [] rfl rfl⟩

end Sys2Proof

/-! ## Decoding, byte by byte

What the decoder does with a byte in each of its states, for every state of the block: the session is not looked at. -/

namespace Sys2Proof.Machine

variable {s : State}

/-- Settles O21: `exec` runs the latch, which reads neither `pad` nor the decoder's state. -/
theorem decHiLatches : Obligations.DecHiLatches := by
  unfold Obligations.DecHiLatches
  exact fun pad h s => rfl

/-- `s` once `DEC.LO l` has written its Sample to the host ring, which is still to be counted. -/
def State.lowWritten (l : BitVec 7) (s : State) : State :=
  hsWrite (assemble s.decHigh l).toCell { s with decPending := false }

theorem exec_decLo_of_pending (l : BitVec 7) (pending : s.decPending = true) :
    exec (.decLo l) s = .next (bpCount (s.lowWritten l)) :=
  if_pos pending

theorem exec_decLo_of_idle (l : BitVec 7) (idle : s.decPending = false) : exec (.decLo l) s = .fault .notEnabled :=
  if_neg (by simp [idle])

theorem exec_decDrop_of_idle (l : BitVec 7) (idle : s.decPending = false) : exec (.decDrop l) s = .next s :=
  if_neg (by simp [idle])

theorem exec_decDrop_of_pending (l : BitVec 7) (pending : s.decPending = true) :
    exec (.decDrop l) s = .fault .notEnabled :=
  if_pos pending

/-- Settles O23, by the branch `DEC.DROP` takes in the idle state. -/
theorem decDropDiscards : Obligations.DecDropDiscards := by
  unfold Obligations.DecDropDiscards
  exact fun l s idle => exec_decDrop_of_idle l idle

/-- Settles O24, by the decoder state each of the two is not enabled in. -/
theorem lowByteNeedsItsDecoderState : Obligations.LowByteNeedsItsDecoderState := by
  unfold Obligations.LowByteNeedsItsDecoderState
  exact fun l s => ⟨exec_decLo_of_idle l, exec_decDrop_of_pending l⟩

/-! ### The two bytes of a Frame -/

theorem decodeData_encHi (pending : Bool) (v : Cell16) :
    decodeData pending (encHi v) = .decHi 0 (v.extractLsb' 7 3) :=
  decodeData_encodeByte_decHi pending 0 (v.extractLsb' 7 3)

theorem decodeData_encLo (pending : Bool) (v : Cell16) :
    decodeData pending (encLo v) = if pending then .decLo (v.extractLsb' 0 7) else .decDrop (v.extractLsb' 0 7) :=
  decodeData_sync_zero pending (v.extractLsb' 0 7)

theorem encHi_toNat (v : Cell16) : (encHi v).toNat = 0x80 ||| ((v.toNat >>> 7) &&& 0x07) := by
  rw [encHi, BitVec.toNat_append, BitVec.extractLsb'_toNat, Nat.and_two_pow_sub_one_eq_mod _ 3]
  rfl

theorem encLo_toNat (v : Cell16) : (encLo v).toNat = v.toNat &&& 0x7F := by
  rw [encLo, BitVec.toNat_append, BitVec.extractLsb'_toNat, Nat.and_two_pow_sub_one_eq_mod _ 7]
  simp

/-- The high byte of a Frame is `0x80` to `0x87`: its padding is zero (40_frame_codec.md R122). -/
theorem encHi_toNat_mem (v : Cell16) : 0x80 ≤ (encHi v).toNat ∧ (encHi v).toNat ≤ 0x87 := by
  have low : (v.toNat >>> 7) &&& 0x07 < 2 ^ 7 := Nat.and_le_right.trans_lt (by decide)
  have three : (v.toNat >>> 7) &&& 0x07 ≤ 7 := Nat.and_le_right
  rw [encHi_toNat, ← Nat.two_pow_add_eq_or_of_lt low 1]
  omega

/-- Settles O4: the fields of the two layouts, as numbers. -/
theorem encoderFormula : Obligations.EncoderFormula := by
  unfold Obligations.EncoderFormula
  exact fun v => ⟨encHi_toNat v, encLo_toNat v, encHi_toNat_mem v, Nat.le_of_lt_succ (encLo_toNat_lt v)⟩

/-- `s` once the high byte of the Frame of `v` has been latched. -/
def State.latched (v : Sample) (s : State) : State := { s with decHigh := v.toCell.extractLsb' 7 3, decPending := true }

/-- `s` once both bytes of the Frame of `v` have been decoded: the Sample is in the host ring and counted. -/
def State.delivered (v : Sample) (s : State) : State :=
  Machine.bpCount (hsWrite v.toCell { s.latched v with decPending := false })

@[simp] theorem latched_decPending (v : Sample) : (s.latched v).decPending = true := rfl
@[simp] theorem latched_hConn (v : Sample) : (s.latched v).hConn = s.hConn := rfl
@[simp] theorem latched_hsWriteCell (v : Sample) : (s.latched v).hsWriteCell = s.hsWriteCell := rfl
@[simp] theorem delivered_decPending (v : Sample) : (s.delivered v).decPending = false := by simp [State.delivered]
@[simp] theorem delivered_hConn (v : Sample) : (s.delivered v).hConn = s.hConn := by simp [State.delivered]
@[simp] theorem delivered_hsHead (v : Sample) : (s.delivered v).hsHead = ringSucc s.cfg.hsN s.hsHead := by
  simp [State.delivered, State.latched]

theorem delivered_hsRead (v : Sample) : (s.delivered v).hsRead s.hsWriteCell = v.toCell :=
  hsRead_bpCount_hsWrite (s := { s.latched v with decPending := false }) v.toCell

theorem exec_encHi (v : Sample) (s : State) :
    exec (decodeData s.decPending (encHi v.toCell)) s = .next (s.latched v) := by
  rw [decodeData_encHi]
  rfl

theorem exec_encLo_of_latched (v : Sample) (s : State) :
    exec (decodeData (s.latched v).decPending (encLo v.toCell)) (s.latched v) = .next (s.delivered v) := by
  rw [decodeData_encLo, latched_decPending, if_pos rfl, exec_decLo_of_pending _ rfl]
  simp only [State.delivered, State.lowWritten, State.latched, assemble_extractLsb']

/-- Settles O5: the high byte is latched, and the low byte makes the Sample again with it. -/
theorem frameRoundTrip : Obligations.FrameRoundTrip := by
  unfold Obligations.FrameRoundTrip
  exact fun v s => ⟨s.latched v, s.delivered v, exec_encHi v s, latched_decPending v, exec_encLo_of_latched v s,
    delivered_decPending v, delivered_hsRead v, delivered_hsHead v⟩

end Sys2Proof.Machine

/-! ## Streams of Frames at a connected host

A stream is taken apart one Frame, or one lone byte of a Frame, at a time; `feed` of what is left goes on from the state
that leaves. -/

namespace Sys2Proof.Machine

variable {s : State} {bs : List Byte}

theorem feed_cons {b : Byte} {t : State} (connected : s.hConn = .connected)
    (rx : exec (decodeData s.decPending b) s = .next t) :
    feed (b :: bs) s = (feed bs t).map fun r => (r.1, deliveredBy s t b ++ r.2) := by
  have done : perform (.hostRx b) s = .next t :=
    (perform_of_enabled rfl).trans ((opHostRx_of_connected b connected).trans rx)
  rw [feed, done]

/-- A high byte delivers nothing by itself, in either decoder state (40_frame_codec.md R123). -/
theorem feed_encHi (v : Sample) (connected : s.hConn = .connected) :
    feed (encHi v.toCell :: bs) s = feed bs (s.latched v) := by
  have nothing : deliveredBy s (s.latched v) (encHi v.toCell) = [] := by simp [deliveredBy, decodeData_encHi]
  simp [feed_cons connected (exec_encHi v s), nothing]

/-- A low byte whose high byte is missing is discarded (40_frame_codec.md R125). -/
theorem feed_encLo_of_idle (v : Sample) (connected : s.hConn = .connected) (idle : s.decPending = false) :
    feed (encLo v.toCell :: bs) s = feed bs s := by
  have dec : decodeData s.decPending (encLo v.toCell) = .decDrop (v.toCell.extractLsb' 0 7) := by
    simp [decodeData_encLo, idle]
  have nothing : deliveredBy s s (encLo v.toCell) = [] := by simp [deliveredBy, dec]
  simp [feed_cons connected (dec ▸ exec_decDrop_of_idle _ idle), nothing]

/-- A Frame delivers its Sample, in either decoder state, and then what follows it is fed (40_frame_codec.md R126). -/
theorem feed_frame {v : Sample} {t : State} {xs : List Cell16} (connected : s.hConn = .connected)
    (after : feed bs (s.delivered v) = some (t, xs)) :
    feed (encHi v.toCell :: encLo v.toCell :: bs) s = some (t, v.toCell :: xs) := by
  have sample : deliveredBy (s.latched v) (s.delivered v) (encLo v.toCell) = [v.toCell] := by
    simp [deliveredBy, decodeData_encLo, delivered_hsRead]
  rw [feed_encHi v connected, feed_cons (s := s.latched v) connected (exec_encLo_of_latched v s), after, sample]
  rfl

theorem stream_cons (v : Sample) (vs : List Sample) :
    stream (v :: vs) = encHi v.toCell :: encLo v.toCell :: stream vs := rfl

/-- A stream fed whole, in either decoder state (40_frame_codec.md R127 item 1). -/
theorem feed_stream (vs : List Sample) (connected : s.hConn = .connected) :
    ∃ t, feed (stream vs) s = some (t, vs.map Sample.toCell) ∧
      (s.decPending = false ∨ vs ≠ [] → t.decPending = false) := by
  induction vs generalizing s with
  | nil => exact ⟨s, rfl, by simp⟩
  | cons v vs ih =>
    obtain ⟨t, fed, idle⟩ := ih (s := s.delivered v) (by simpa)
    exact ⟨t, feed_frame connected fed, fun _ => idle (.inl (delivered_decPending v))⟩

/-- A stream without its first `n` bytes: after an odd number of them the remainder starts with a low byte, which is
discarded (40_frame_codec.md R127 item 2). -/
theorem feed_stream_drop (vs : List Sample) (n : Nat) (connected : s.hConn = .connected) (idle : s.decPending = false) :
    ∃ t, feed ((stream vs).drop n) s = some (t, (vs.drop ((n + 1) / 2)).map Sample.toCell) := by
  induction vs generalizing n with
  | nil => exact ⟨s, by simp [stream, feed]⟩
  | cons v vs ih =>
    match n with
    | 0 =>
      obtain ⟨t, fed, -⟩ := feed_stream (v :: vs) connected
      exact ⟨t, fed⟩
    | 1 =>
      obtain ⟨t, fed, -⟩ := feed_stream vs connected
      exact ⟨t, (feed_encLo_of_idle v connected idle).trans fed⟩
    | n + 2 =>
      rw [show (n + 2 + 1) / 2 = (n + 1) / 2 + 1 by omega]
      exact ih n

/-- A stream without its `p`-th byte: a low byte left alone is discarded, a high byte left alone is replaced by the next
Frame's (40_frame_codec.md R127 item 3). -/
theorem feed_stream_eraseIdx (vs : List Sample) (p : Nat) (connected : s.hConn = .connected)
    (idle : s.decPending = false) :
    ∃ t, feed ((stream vs).eraseIdx p) s = some (t, (vs.eraseIdx (p / 2)).map Sample.toCell) := by
  induction vs generalizing s p with
  | nil => exact ⟨s, by simp [stream, feed]⟩
  | cons v vs ih =>
    match p with
    | 0 =>
      obtain ⟨t, fed, -⟩ := feed_stream vs connected
      exact ⟨t, (feed_encLo_of_idle v connected idle).trans fed⟩
    | 1 =>
      obtain ⟨t, fed, -⟩ := feed_stream (s := s.latched v) vs connected
      exact ⟨t, (feed_encHi v connected).trans fed⟩
    | p + 2 =>
      obtain ⟨t, fed⟩ := ih (s := s.delivered v) p (by simpa) (by simp)
      rw [show (p + 2) / 2 = p / 2 + 1 by omega]
      exact ⟨t, feed_frame connected fed⟩

/-- Settles O25, by induction over the Samples of the stream for each of the three ways to feed it. -/
theorem resynchronisation : Obligations.Resynchronisation := by
  unfold Obligations.Resynchronisation
  refine fun vs s connected => ⟨?whole, fun idle n => feed_stream_drop vs n connected idle,
    fun idle p _ => feed_stream_eraseIdx vs p connected idle⟩
  obtain ⟨t, fed, ends⟩ := feed_stream vs connected
  exact ⟨t, fed, fun nonempty => ends (.inr nonempty)⟩

end Sys2Proof.Machine

/-! ## What `DEC.LO` does to the host ring and to the controller -/

namespace Sys2Proof.Machine

variable {s : State}

/-! ### A count, by what it starts (43_backpressure.md R191, R193, R194) -/

theorem bpCount_of_starts (starts : bpStarts s = true) : bpCount s = bpAccept { s with bpCount := 0 } := by
  obtain ⟨hit, idle⟩ : thresholdHit s = true ∧ s.dspBusy = false := by simpa [bpStarts] using starts
  rw [bpCount, if_pos hit, bpReq, if_neg (by simp [idle])]

theorem bpCount_of_not_starts (starts : bpStarts s = false) :
    bpCount s = { s with bpCount := if thresholdHit s then 0 else s.bpCount + 1 } := by
  rw [bpCount_eq, starts]
  cases hit : thresholdHit s with
  | false => simp
  | true =>
    have busy : s.dspBusy = true := by simpa [bpStarts, hit] using starts
    simp [busy]

/-- The captured window is the ring's most recent Samples (43_backpressure.md R193, 41_ring_buffers.md R147). -/
theorem winRead_bpAccept_in {j : Nat} (hj : j < min s.cfg.w s.hsCount) :
    (bpAccept s).winRead j = s.hsRead (s.recentCell (min s.cfg.w s.hsCount) j) := by
  have captured := memRead_memWriteFrom_in (readRecent s (min s.cfg.w s.hsCount)) s.win 0 j (by simpa using hj)
  rw [Nat.zero_add, readRecent_getElem] at captured
  simp [State.winRead, captured]

theorem winRead_bpAccept_out {a : Nat} (ha : min s.cfg.w s.hsCount ≤ a) : (bpAccept s).winRead a = s.winRead a := by
  have untouched := memRead_memWriteFrom_out (readRecent s (min s.cfg.w s.hsCount)) s.win 0 a (.inr (by simpa using ha))
  simp [State.winRead, untouched]

/-- The assembled Sample as a number (40_frame_codec.md R124). -/
theorem assemble_toCell_toNat (h : BitVec 3) (l : BitVec 7) :
    (assemble h l).toCell.toNat = (h.toNat <<< 7) ||| l.toNat := by
  rw [Sample.toCell, BitVec.toNat_setWidth_of_le (by decide), assemble, BitVec.toNat_append]

theorem bpStarts_iff : bpStarts s = true ↔ s.bpCount + 1 ≥ s.cfg.thresh s.hRate ∧ s.dspBusy = false := by
  simp [bpStarts, thresholdHit]

theorem bpStarts_eq_false_iff :
    bpStarts s = false ↔ ¬ s.bpCount + 1 ≥ s.cfg.thresh s.hRate ∨ s.dspBusy = true := by
  rw [← Bool.not_eq_true, bpStarts_iff, not_and_or, Bool.not_eq_false]

/-- The write of the Sample touches nothing that decides whether the count starts a pass. -/
theorem bpStarts_lowWritten (l : BitVec 7) : bpStarts (s.lowWritten l) = bpStarts s := rfl

theorem hsRead_bpCount_lowWritten (l : BitVec 7) :
    (bpCount (s.lowWritten l)).hsRead s.hsWriteCell = (assemble s.decHigh l).toCell :=
  hsRead_bpCount_hsWrite (s := { s with decPending := false }) _

/-- A completed Sample changes no cell but its own (41_ring_buffers.md R146). -/
theorem hsRead_bpCount_lowWritten_other (l : BitVec 7) {a : Nat} (ha : a ≠ s.hsWriteCell) :
    (bpCount (s.lowWritten l)).hsRead a = s.hsRead a := by
  have other : a ≠ State.hsWriteCell { s with decPending := false } := ha
  simp [State.hsRead, State.lowWritten, memRead_memWrite_other _ _ other]

/-- Settles O22: the write's cell and frame, then the count, by whether it starts a pass. -/
theorem decLoDelivers : Obligations.DecLoDelivers := by
  unfold Obligations.DecLoDelivers
  intro l s pending
  refine ⟨bpCount (s.lowWritten l), exec_decLo_of_pending l pending, ?stored,
    fun a ha => hsRead_bpCount_lowWritten_other l ha, ?frame, fun starts => ?started, fun no => ?quiet⟩
  case stored => rw [hsRead_bpCount_lowWritten, assemble_toCell_toNat]
  case frame =>
    rw [bpCount_eq]
    simp [State.lowWritten, thresholdHit, ringSucc]
  case started =>
    rw [bpCount_of_starts ((bpStarts_lowWritten l).trans (bpStarts_iff.2 starts))]
    exact ⟨rfl, rfl, rfl, fun j hj => winRead_bpAccept_in hj, fun a ha => winRead_bpAccept_out ha⟩
  case quiet =>
    rw [bpCount_of_not_starts ((bpStarts_lowWritten l).trans (bpStarts_eq_false_iff.2 no))]
    exact ⟨rfl, rfl, rfl, fun a => rfl⟩

end Sys2Proof.Machine

/-! ## Sampling, whole and in sub-steps -/

namespace Sys2Proof.Machine

variable {s : State}

theorem enabled_tick : enabled .tick s = true ↔ s.acq = .running ∧ s.convLo = none := by simp [enabled, convIdle]

theorem enabled_convDone (v : Sample) :
    enabled (.convDone v) s = true ↔ s.convPending = true ∧ s.convLo = none := by
  simp [enabled, convIdle]

/-- Settles O13, by when a tick is enabled. -/
theorem tickStartsConversion : Obligations.TickStartsConversion := by
  unfold Obligations.TickStartsConversion
  refine fun s => ⟨fun running idle => perform_of_enabled (enabled_tick.2 ⟨running, idle⟩), fun stopped => ?_⟩
  exact perform_of_not_enabled (by simp [enabled, stopped])

theorem perform_convDone (v : Sample) (pending : s.convPending = true) (idle : s.convLo = none) :
    perform (.convDone v) s = opConvDone v s :=
  perform_of_enabled ((enabled_convDone v).2 ⟨pending, idle⟩)

theorem opConvDone_of_whole (v : Sample) (whole : s.grain = .whole) :
    opConvDone v s = .next (txPush (encLo v.toCell) (txPush (encHi v.toCell) { s with convPending := false })) := by
  simp [opConvDone, whole]

theorem opConvDone_of_subSteps (v : Sample) (sub : s.grain = .subSteps) :
    opConvDone v s =
      .next { txPush (encHi v.toCell) { s with convPending := false } with convLo := some (encLo v.toCell) } := by
  simp [opConvDone, sub]

/-- Settles O18, by when a `CONV.DONE` is enabled and what it does taken whole. -/
theorem convDonePushesFrame : Obligations.ConvDonePushesFrame := by
  unfold Obligations.ConvDonePushesFrame
  refine fun v s => ⟨fun pending idle whole => ?_, fun none_pending => ?_⟩
  · exact (perform_convDone v pending idle).trans (opConvDone_of_whole v whole)
  · exact perform_of_not_enabled (by simp [enabled, none_pending])

/-- `s` with the sub-steps of a `CONV.DONE` as given: how the next is taken, and the byte kept for the second push. -/
def State.withSubStep (g : Grain) (lo : Option Byte) (s : State) : State := { s with grain := g, convLo := lo }

theorem withGrain_of_idle (g : Grain) (idle : s.convLo = none) : { s with grain := g } = s.withSubStep g none := by
  rw [← idle]
  rfl

/-- A push reads neither the grain nor the byte kept. -/
theorem txPush_withSubStep (b : Byte) (g : Grain) (lo : Option Byte) :
    txPush b (s.withSubStep g lo) = (txPush b s).withSubStep g lo := by
  rw [txPush_eq, txPush_eq s]
  rfl

/-- Two pushes in sub-steps, the second byte kept meanwhile, leave what the two taken whole leave. -/
theorem two_pushes_in_subSteps (hi lo : Byte) (idle : s.convLo = none) :
    { txPush lo { txPush hi { s with grain := .subSteps } with convLo := some lo } with convLo := none } =
      { txPush lo (txPush hi { s with grain := .whole }) with grain := .subSteps } := by
  have second : txPush lo ((txPush hi s).withSubStep .subSteps (some lo)) =
      (txPush lo (txPush hi s)).withSubStep .subSteps (some lo) := txPush_withSubStep lo .subSteps (some lo)
  rw [withGrain_of_idle .subSteps idle, withGrain_of_idle .whole idle, txPush_withSubStep, txPush_withSubStep,
    txPush_withSubStep]
  exact congrArg (fun t : State => { t with convLo := none }) second

theorem nextPush_of_convLo {lo : Byte} (kept : s.convLo = some lo) : nextPush s = some lo := by simp [nextPush, kept]

theorem perform_txPush_of_convLo {lo : Byte} (kept : s.convLo = some lo) :
    perform (.txPush lo) s = .next { txPush lo s with convLo := none } := by
  rw [perform_of_enabled (by simp [enabled, nextPush_of_convLo kept]), take, opTxPush, kept]

/-- Settles O19: neither push reads the grain or the byte kept, so both ways make the same two. -/
theorem convDoneSubSteps : Obligations.ConvDoneSubSteps := by
  unfold Obligations.ConvDoneSubSteps
  intro v s pending idle
  have first := (perform_convDone (s := { s with grain := .subSteps }) v pending idle).trans
    (opConvDone_of_subSteps v rfl)
  have whole := (perform_convDone (s := { s with grain := .whole }) v pending idle).trans
    (opConvDone_of_whole v rfl)
  refine ⟨_, _, first, rfl, (perform_txPush_of_convLo rfl).trans (congrArg _ ?_), whole⟩
  exact two_pushes_in_subSteps (s := { s with convPending := false }) _ _ idle

/-- Settles O20, operation by operation. -/
theorem interleavingBetweenSubSteps : Obligations.InterleavingBetweenSubSteps := by
  unfold Obligations.InterleavingBetweenSubSteps
  refine fun s => ⟨fun lo kept => ⟨fun e device on => ?_, ?_, rfl⟩, fun k pos idle => ?_⟩
  · have next := nextPush_of_convLo kept
    cases e with
    | devReset c => exact .inr (.inr (.inr ⟨c, rfl⟩))
    | txDrain => exact .inl rfl
    | txPush b =>
      have same : lo = b := by simpa [enabled, next] using on
      exact .inr (.inl (same ▸ rfl))
    | linkH2d act =>
      cases act with
      | drop => exact .inr (.inr (.inl rfl))
      | deliver | garble => simp [enabled, cmdReady, kept] at on
    | tick | convDone | cmd => simp [enabled, convIdle, cmdReady, kept] at on
    | hostReset | linkD2h | hostSend | hostConnect | hostTimeout | hostDisconnect | hostXfault | hostRx | hsReadRecent
    | dspDone | setGrain => cases device
  · simp [enabled, nextPush_of_convLo kept]
  · have busy : cmdReady s = false := by simp [cmdReady, pos]
    refine ⟨fun b => busy, by simp [enabled, busy], fun b => by simp [enabled, busy], ?_, fun v => ?_, rfl⟩
    · simp [enabled_tick, idle]
    · simp [enabled, convIdle, idle]

end Sys2Proof.Machine

/-! ## The TX ring, one operation at a time and over any sequence -/

namespace Sys2Proof.Machine

variable {s t : State}

/-! ### One push and one drain, by the ring's state (41_ring_buffers.md R141, R144) -/

theorem txFull_iff : txFull s = true ↔ (s.txHead + 1) % s.cfg.txN = s.txTail := beq_iff_eq

theorem txEmpty_iff : txEmpty s = true ↔ s.txHead = s.txTail := beq_iff_eq

theorem txPush_of_full (b : Byte) (full : txFull s = true) : txPush b s =
    { s with
      txFault := true
      faultInd := overflowInd s.cfg.faultIndMode s.faultInd
      raised := .txOverflow :: s.raised } := if_pos full

theorem txPush_of_room (b : Byte) (room : txFull s = false) : txPush b s =
    { s with
      txMem := memWrite s.txMem s.txPushCell b
      txHead := (s.txHead + 1) % s.cfg.txN
      txDrainEn := true } := if_neg (Bool.eq_false_iff.1 room)

/-- Settles O14, by whether the ring is full. -/
theorem pushStoresOrDrops : Obligations.PushStoresOrDrops := by
  unfold Obligations.PushStoresOrDrops
  refine fun b s => ⟨fun full => txPush_of_full b (txFull_iff.2 full), fun room => ?_⟩
  have hf : txFull s = false := Bool.eq_false_iff.2 (mt txFull_iff.1 room)
  exact ⟨txRead_txPush_same b hf, fun a ha => txRead_txPush_other b ha, by rw [txPush_of_room b hf]⟩

theorem txDrain_of_empty (empty : s.txHead = s.txTail) : txDrain s = { s with txDrainEn := false } :=
  if_pos (txEmpty_iff.2 empty)

/-- An armed drain of a ring that is not empty stays armed exactly while bytes are left. -/
theorem txDrain_of_waiting (armed : s.txDrainEn = true) (waiting : s.txHead ≠ s.txTail) : txDrain s =
    { s with
      txTail := (s.txTail + 1) % s.cfg.txN
      linkD2h := s.linkD2h ++ [s.txRead s.txDrainCell]
      emitted := .txByte (s.txRead s.txDrainCell) :: s.emitted
      txDrainEn := decide (s.txHead ≠ (s.txTail + 1) % s.cfg.txN) } := by
  rw [txDrain_eq]
  simp [txEmpty, waiting, armed, ringSucc]

theorem perform_txDrain (armed : s.txDrainEn = true) : perform .txDrain s = .next (txDrain s) :=
  perform_of_enabled armed

/-- Settles O15, by when the drain is armed and whether a byte waits. -/
theorem drainSendsOldestByte : Obligations.DrainSendsOldestByte := by
  unfold Obligations.DrainSendsOldestByte
  refine fun s => ⟨fun idle => perform_of_not_enabled idle, fun armed empty => ?_, fun armed waiting => ?_⟩
  · rw [perform_txDrain armed, txDrain_of_empty empty]
  · rw [perform_txDrain armed, txDrain_of_waiting armed waiting]

/-! ### How many bytes are live (41_ring_buffers.md R142, 10_state.md R47) -/

theorem txLive_le (h : TxOk s) : txLive s ≤ s.cfg.txN - 1 := Nat.le_sub_one_of_lt (txLive_lt h)

/-- Settles O17. -/
theorem fullMeansAllButOneLive : Obligations.FullMeansAllButOneLive := by
  unfold Obligations.FullMeansAllButOneLive
  refine fun s h => ⟨?_, txEmpty_iff.trans (txLive_eq_zero_iff h).symm, txLive_le h⟩
  have two_le := h.two_le
  rw [txFull_iff_txLive h]
  omega

/-! ### Sequences of pushes and drains (41_ring_buffers.md R145) -/

@[simp] theorem txOp_cfg (o : Option Byte) : (txOp o s).cfg = s.cfg := by
  cases o with
  | some b => exact txPush_cfg s b
  | none => rw [txOp]; split <;> simp

@[simp] theorem txRun_cfg (ops : List (Option Byte)) : (txRun ops s).cfg = s.cfg := by
  induction ops generalizing s with
  | nil => rfl
  | cons o os ih => exact ih.trans (txOp_cfg o)

theorem TxOk.txOp (h : TxOk s) (o : Option Byte) : TxOk (txOp o s) := by
  cases o with
  | some b => exact h.txPush b
  | none =>
    rw [Machine.txOp]
    split
    · exact h.txDrain
    · exact h

theorem TxOk.txRun (h : TxOk s) (ops : List (Option Byte)) : TxOk (txRun ops s) := by
  induction ops generalizing s with
  | nil => exact h
  | cons o os ih => exact ih (h.txOp o)

/-- From `s` to `t` the ring took in `ins` behind the bytes that waited and sent `outs` from the front, in order. -/
structure TxServed (s : State) (ins outs : List Byte) (t : State) : Prop where
  link : t.linkD2h = s.linkD2h ++ outs
  port : t.emitted = outs.reverse.map .txByte ++ s.emitted
  queue : liveBytes s ++ ins = outs ++ liveBytes t

theorem TxServed.refl (s : State) : TxServed s [] [] s := ⟨by simp, by simp, by simp⟩

theorem TxServed.trans {u : State} {ins ins' outs outs' : List Byte} (first : TxServed s ins outs t)
    (second : TxServed t ins' outs' u) : TxServed s (ins ++ ins') (outs ++ outs') u where
  link := by rw [second.link, first.link, List.append_assoc]
  port := by simp [second.port, first.port]
  queue := by rw [← List.append_assoc, first.queue, List.append_assoc, second.queue, List.append_assoc]

/-- A refused push leaves the waiting bytes as they are (41_ring_buffers.md R141). -/
theorem liveBytes_txPush_of_full (b : Byte) (full : txFull s = true) : liveBytes (txPush b s) = liveBytes s := by
  rw [txPush_of_full b full]
  rfl

theorem TxServed.txPush_of_full (b : Byte) (full : txFull s = true) : TxServed s [] [] (txPush b s) where
  link := by simp
  port := by simp
  queue := by rw [liveBytes_txPush_of_full b full, List.append_nil, List.nil_append]

theorem TxServed.txPush_of_room (h : TxOk s) (b : Byte) (room : txFull s = false) :
    TxServed s [b] [] (txPush b s) where
  link := by simp
  port := by simp
  queue := (liveBytes_txPush h b room).symm

theorem TxServed.txDrain (h : TxOk s) (waiting : s.txHead ≠ s.txTail) :
    TxServed s [] [s.txRead s.txDrainCell] (txDrain s) where
  link := by rw [txDrain_of_waiting (h.drain.2 waiting) waiting]
  port := by rw [txDrain_of_waiting (h.drain.2 waiting) waiting]; rfl
  queue := by rw [List.append_nil, liveBytes_eq_cons_txDrain h waiting, List.singleton_append]

/-- One operation takes in its byte if it is a push with room, and sends at most the front byte. -/
theorem txServed_txOp (h : TxOk s) (o : Option Byte) :
    ∃ outs, TxServed s (if txFull s then [] else o.toList) outs (txOp o s) := by
  cases o with
  | some b =>
    cases hf : txFull s with
    | true => exact ⟨[], .txPush_of_full b hf⟩
    | false => exact ⟨[], .txPush_of_room h b hf⟩
  | none =>
    rw [Option.toList_none, ite_self, txOp]
    split
    · exact ⟨_, .txDrain h (h.drain.1 ‹_›)⟩
    · exact ⟨[], .refl s⟩

theorem txServed_txRun (h : TxOk s) (ops : List (Option Byte)) :
    ∃ outs, TxServed s (txAccepted ops s) outs (txRun ops s) := by
  induction ops generalizing s with
  | nil => exact ⟨[], .refl s⟩
  | cons o os ih =>
    obtain ⟨outs, first⟩ := txServed_txOp h o
    obtain ⟨outs', rest⟩ := ih (h.txOp o)
    exact ⟨outs ++ outs', first.trans rest⟩

/-- One operation shows an overflow exactly if it is a refused push (10_state.md R25). -/
theorem txFault_txOp (o : Option Byte) :
    (txOp o s).txFault = true ↔ s.txFault = true ∨ (if txFull s then o.toList else []) ≠ [] := by
  cases o with
  | some b => simp [txOp, txPush_eq]
  | none => rw [txOp]; split <;> simp

theorem txFault_txRun (ops : List (Option Byte)) :
    (txRun ops s).txFault = true ↔ s.txFault = true ∨ txRejected ops s ≠ [] := by
  induction ops generalizing s with
  | nil => simp [txRun, txRejected]
  | cons o os ih => rw [txRun, ih, txFault_txOp, txRejected, or_assoc, ← not_and_or, ← List.append_eq_nil_iff]

/-- Settles O16: each operation serves the queue, and serving composes. -/
theorem txRingIsAQueue : Obligations.TxRingIsAQueue := by
  unfold Obligations.TxRingIsAQueue
  intro ops s h
  obtain ⟨outs, served⟩ := txServed_txRun h ops
  exact ⟨h.txRun ops, txRun_cfg (s := s) ops ▸ txLive_le (h.txRun ops),
    ⟨outs, served.link, served.port, served.queue⟩, txFault_txRun ops⟩

end Sys2Proof.Machine

/-! ## The host ring as the list of Samples written

`HsRemembers ws s` says where the ring of `s` keeps the most recent of the Samples `ws`: the `i`-th written stands in
cell `i mod HS_N` until it is overwritten. Writing extends `ws`; reading back the most recent is read off it. -/

namespace Sys2Proof.Machine

variable {s : State}

/-- The ring after the writes `ws` from the empty ring (41_ring_buffers.md R148). -/
structure HsRemembers (ws : List Cell16) (s : State) : Prop where
  count : s.hsCount = min ws.length s.cfg.hsN
  head : s.hsHead = ws.length % s.cfg.hsN
  cell : ∀ i (hi : i < ws.length), ws.length ≤ i + s.cfg.hsN → s.hsRead (i % s.cfg.hsN) = ws[i]

theorem hsRemembers_nil (head : s.hsHead = 0) (count : s.hsCount = 0) : HsRemembers [] s where
  count := by simp [count]
  head := by simp [head]
  cell := fun i hi => absurd hi (Nat.not_lt_zero i)

theorem hsRead_hsWrite_same (v : Cell16) : (hsWrite v s).hsRead s.hsWriteCell = v := by
  simp [State.hsRead, memRead_memWrite_same]

theorem hsRead_hsWrite_other (v : Cell16) {a : Nat} (ha : a ≠ s.hsWriteCell) :
    (hsWrite v s).hsRead a = s.hsRead a := by
  simp [State.hsRead, memRead_memWrite_other _ _ ha]

/-- Indices less than `n` apart stand in different cells. -/
theorem mod_ne_mod_of_lt_of_lt_add {n i k : Nat} (after : i < k) (near : k < i + n) : i % n ≠ k % n := by
  refine fun same => after.ne (Nat.mod_injOn_Ico i n ?_ ?_ same) <;>
    rw [Finset.coe_Ico, Set.mem_Ico] <;> omega

/-- A write overwrites the oldest cell only, and its Sample is the newest (41_ring_buffers.md R146). -/
theorem HsRemembers.hsWrite {ws : List Cell16} (h : HsRemembers ws s) (v : Cell16) :
    HsRemembers (ws ++ [v]) (hsWrite v s) where
  count := by
    rw [hsWrite_hsCount, hsWrite_cfg, h.count, List.length_append, List.length_singleton]
    omega
  head := by
    rw [hsWrite_hsHead, hsWrite_cfg, h.head, ringSucc, Nat.mod_add_mod, List.length_append, List.length_singleton]
  cell := fun i hi kept => by
    rw [List.length_append, List.length_singleton] at hi kept
    rw [hsWrite_cfg] at kept ⊢
    have written : s.hsWriteCell = ws.length % s.cfg.hsN := by rw [State.hsWriteCell, h.head, Nat.mod_mod]
    obtain older | newest := Nat.lt_succ_iff_lt_or_eq.1 hi
    · rw [hsRead_hsWrite_other v (written ▸ mod_ne_mod_of_lt_of_lt_add older kept), h.cell i older (by omega),
        List.getElem_append_left]
    · subst newest
      rw [← written, hsRead_hsWrite_same, List.getElem_concat_length rfl]

@[simp] theorem hsRun_cfg (vs : List Cell16) : (hsRun vs s).cfg = s.cfg := by
  induction vs generalizing s with
  | nil => rfl
  | cons v vs ih => exact ih

theorem HsRemembers.hsRun {ws : List Cell16} (h : HsRemembers ws s) (vs : List Cell16) :
    HsRemembers (ws ++ vs) (hsRun vs s) := by
  induction vs generalizing s ws with
  | nil => rwa [List.append_nil]
  | cons v vs ih => rw [List.append_cons]; exact ih (h.hsWrite v)

/-- The cells of `HS.READ_RECENT`, one `mod` (41_ring_buffers.md R147). -/
theorem recentCell_eq_mod {l : Nat} (hl : l ≤ s.cfg.hsN) (j : Nat) :
    s.recentCell l j = (s.hsHead + (s.cfg.hsN - l) + j) % s.cfg.hsN := by
  rw [State.recentCell, ringSub, Nat.mod_add_mod]
  obtain below | all := hl.lt_or_eq
  · rw [Nat.mod_eq_of_lt below]
  · rw [all, Nat.mod_self, Nat.sub_zero, Nat.sub_self, Nat.add_zero, Nat.add_right_comm, Nat.add_mod_right]

/-- The `j`-th of the `l` most recent Samples is the one written `l − j` before the end. -/
theorem HsRemembers.recentCell_eq {ws : List Cell16} (h : HsRemembers ws s) {l : Nat} (hl : l ≤ s.cfg.hsN)
    (written : l ≤ ws.length) (j : Nat) : s.recentCell l j = (ws.length - l + j) % s.cfg.hsN := by
  rw [recentCell_eq_mod hl, h.head, Nat.add_assoc, Nat.mod_add_mod,
    show ws.length + (s.cfg.hsN - l + j) = ws.length - l + j + s.cfg.hsN by omega, Nat.add_mod_right]

theorem HsRemembers.readRecent_eq {ws : List Cell16} (h : HsRemembers ws s) {l : Nat} (hl : l ≤ s.cfg.hsN)
    (written : l ≤ ws.length) : readRecent s l = ws.drop (ws.length - l) := by
  refine List.ext_getElem (by rw [readRecent_length, List.length_drop]; omega) fun j hj _ => ?_
  rw [readRecent_length] at hj
  rw [readRecent_getElem, h.recentCell_eq hl written, h.cell _ (by omega) (by omega), List.getElem_drop]

/-- Settles O26, from what the ring remembers after the writes. -/
theorem hostRingKeepsMostRecent : Obligations.HostRingKeepsMostRecent := by
  unfold Obligations.HostRingKeepsMostRecent
  intro vs s _ head count
  have h : HsRemembers vs (hsRun vs s) := (hsRemembers_nil head count).hsRun vs
  refine ⟨?_, ?_, fun l hl => h.readRecent_eq ?_ (hl.trans (Nat.min_le_left _ _))⟩
  · rw [h.count, hsRun_cfg]
  · rw [h.head, hsRun_cfg]
  · rw [hsRun_cfg]
    exact hl.trans (Nat.min_le_right _ _)

/-- Settles O27, by when a read is enabled and which cells it returns. -/
theorem readRecentIsBounded : Obligations.ReadRecentIsBounded := by
  unfold Obligations.ReadRecentIsBounded
  refine fun l s h => ⟨fun within => ⟨?_, readRecent_length s l, fun j hj => ?_⟩, fun above => ?_⟩
  · exact perform_of_enabled (decide_eq_true within)
  · have hj' : j < (readRecent s l).length := by rwa [readRecent_length]
    rw [List.getElem?_eq_getElem hj', readRecent_getElem, recentCell_eq_mod (within.trans h.count_le)]
  · exact perform_of_not_enabled (decide_eq_false (Nat.not_le.2 above))

end Sys2Proof.Machine

/-! ## The commands, one by one -/

namespace Sys2Proof.Machine

variable {s : State}

theorem exec_cmdStart (s : State) : exec .cmdStart s = .next { s with acq := .running } := rfl
theorem exec_cmdStop (s : State) : exec .cmdStop s = .next { s with acq := .stopped } := rfl
theorem exec_cmdRate1 (s : State) : exec .cmdRate1 s = .next { s with rate := .r1 } := rfl
theorem exec_cmdRate10 (s : State) : exec .cmdRate10 s = .next { s with rate := .r10 } := rfl
theorem exec_cmdRate20 (s : State) : exec .cmdRate20 s = .next { s with rate := .r20 } := rfl
theorem exec_cmdIgnore (op : Byte) (s : State) : exec (.cmdIgnore op) s = .next s := rfl

/-- The response byte by byte (30_encoding.md R101, R102). -/
theorem response_eq : response = [0x4F#8, 0x53#8, 0x43#8, 0x5F#8, 0x56#8, 0x31#8, 0x0A#8, 0x6D#8] := rfl

theorem exec_cmdHandshake_of_whole (whole : s.grain = .whole) :
    exec .cmdHandshake s = .next (txPushAll response s) := by
  simp [exec, execCmdHandshake, whole]

theorem exec_cmdHandshake_of_subSteps (sub : s.grain = .subSteps) :
    exec .cmdHandshake s = .next (pushResponseByte 0 0x4F#8 s) := by
  simp [exec, execCmdHandshake, sub, response, idBytes]

theorem exec_cmdHandshake_cases {t : State} (done : exec .cmdHandshake s = .next t) :
    t = txPushAll response s ∨ t = pushResponseByte 0 0x4F#8 s := by
  cases grain : s.grain with
  | whole => exact .inl (Host.Outcome.next.inj ((exec_cmdHandshake_of_whole grain).symm.trans done)).symm
  | subSteps => exact .inr (Host.Outcome.next.inj ((exec_cmdHandshake_of_subSteps grain).symm.trans done)).symm

/-- A device that is ready runs the operation whose byte it takes (42_command_channel.md R160). -/
theorem perform_cmd_encodeByte {i : Instr} (command : i.isCommand = true) (wf : i.wellFormed = true)
    (ready : cmdReady s = true) : perform (.cmd (encodeByte i)) s = exec i s := by
  rw [perform_of_enabled (e := .cmd _) ready, take, opCmd, decode_cmd_cons, decodeCommand_encodeByte command wf]

/-- Settles O6, by the bytes the two operations encode to. -/
theorem cmdStartAndStopSetAcquisition : Obligations.CmdStartAndStopSetAcquisition := by
  unfold Obligations.CmdStartAndStopSetAcquisition
  exact fun s => ⟨⟨exec_cmdStart s, perform_cmd_encodeByte (i := .cmdStart) rfl rfl⟩,
    exec_cmdStop s, perform_cmd_encodeByte (i := .cmdStop) rfl rfl⟩

/-- Settles O7, by the bytes the three operations encode to. -/
theorem cmdRatesSelect : Obligations.CmdRatesSelect := by
  unfold Obligations.CmdRatesSelect
  exact fun s => ⟨⟨exec_cmdRate1 s, perform_cmd_encodeByte (i := .cmdRate1) rfl rfl⟩,
    ⟨exec_cmdRate10 s, perform_cmd_encodeByte (i := .cmdRate10) rfl rfl⟩,
    exec_cmdRate20 s, perform_cmd_encodeByte (i := .cmdRate20) rfl rfl⟩

/-- Settles O8: a byte that is no defined opcode is the byte of its `CMD.IGNORE`. -/
theorem cmdIgnoreChangesNothing : Obligations.CmdIgnoreChangesNothing := by
  unfold Obligations.CmdIgnoreChangesNothing
  exact fun b s => ⟨exec_cmdIgnore b s, fun undefined =>
    perform_cmd_encodeByte (i := .cmdIgnore b) rfl (wellFormed_cmdIgnore.2 undefined)⟩

/-! ### What a command leaves alone (42_command_channel.md R168) -/

/-- The axes, the ring's registers, the position in a response and the record of faults are no part of the host half. -/
theorem sameHost_of_device (s : State) {acq : Acq} {rate : Rate} {txMem : List Host.Cell} {txHead : Nat}
    {txDrainEn txFault faultInd : Bool} {hsPos : Option Nat} {raised : List Raised} :
    SameHost s { s with
      acq := acq, rate := rate, txMem := txMem, txHead := txHead, txDrainEn := txDrainEn, txFault := txFault
      faultInd := faultInd, hsPos := hsPos, raised := raised } := by
  constructor <;> intros <;> rfl

/-- What every command keeps, whichever axis it moves. -/
structure CommandKeeps (s t : State) : Prop where
  host : SameHost s t
  linkD2h : t.linkD2h = s.linkD2h
  linkH2d : t.linkH2d = s.linkH2d
  txTail : t.txTail = s.txTail
  convPending : t.convPending = s.convPending
  txFault : s.txFault = true → t.txFault = true
  waiting : TxOk s → s.txHead ≠ s.txTail → t.txHead ≠ t.txTail

theorem commandKeeps_axes (a : Acq) (r : Rate) : CommandKeeps s { s with acq := a, rate := r } :=
  ⟨sameHost_of_device s, rfl, rfl, rfl, rfl, id, fun _ => id⟩

/-- Pushes leave the drain armed, so bytes still wait (10_state.md R47 item 3). -/
theorem waiting_txPushAll (bs : List Byte) (h : TxOk s) (waiting : s.txHead ≠ s.txTail) :
    (txPushAll bs s).txHead ≠ (txPushAll bs s).txTail := by
  induction bs generalizing s with
  | nil => exact waiting
  | cons b bs ih => exact ih (h.txPush b) ((h.txPush b).drain.1 (by simp [txPush_eq, h.drain.2 waiting]))

theorem commandKeeps_txPushAll (bs : List Byte) : CommandKeeps s (txPushAll bs s) where
  host := by rw [txPushAll_eq]; exact sameHost_of_device s
  linkD2h := by rw [txPushAll_eq]
  linkH2d := by rw [txPushAll_eq]
  txTail := by rw [txPushAll_eq]
  convPending := by rw [txPushAll_eq]
  txFault := txFault_txPushAll bs
  waiting := waiting_txPushAll bs

/-- A sub-step of the response is one push, and moves besides only the position in the response. -/
theorem commandKeeps_pushResponseByte (k : Nat) (b : Byte) : CommandKeeps s (pushResponseByte k b s) where
  host := by rw [pushResponseByte, txPush_eq]; exact sameHost_of_device s
  linkD2h := txPush_linkD2h s b
  linkH2d := txPush_linkH2d s b
  txTail := txPush_txTail s b
  convPending := txPush_convPending s b
  txFault := txFault_txPush b
  waiting := waiting_txPushAll [b]

theorem txPushAll_axes (bs : List Byte) : (txPushAll bs s).axes = s.axes := by rw [txPushAll_eq]; rfl

theorem commandKeeps_exec {i : Instr} {t : State} (command : i.isCommand = true) (done : exec i s = .next t) :
    CommandKeeps s t := by
  cases i with
  | cmdStart | cmdStop | cmdRate1 | cmdRate10 | cmdRate20 | cmdIgnore => cases done; exact commandKeeps_axes _ _
  | cmdHandshake =>
    obtain whole | first := exec_cmdHandshake_cases done
    · exact whole ▸ commandKeeps_txPushAll response
    · exact first ▸ commandKeeps_pushResponseByte 0 0x4F#8
  | decHi | decLo | decDrop => cases command

theorem commandKeeps_opCmd {b : Byte} {t : State} (taken : opCmd b s = .next t) : CommandKeeps s t :=
  commandKeeps_exec (decodeCommand_isCommand b) taken

/-- Only start and stop write `acq`, only the rate commands `rate` (42_command_channel.md R160). -/
theorem exec_command_axes {i : Instr} {t : State} (command : i.isCommand = true) (done : exec i s = .next t) :
    (i ≠ .cmdStart → i ≠ .cmdStop → t.acq = s.acq) ∧
      (i ≠ .cmdRate1 → i ≠ .cmdRate10 → i ≠ .cmdRate20 → t.rate = s.rate) := by
  cases i with
  | cmdStart | cmdStop | cmdRate1 | cmdRate10 | cmdRate20 | cmdIgnore => cases done; simp
  | cmdHandshake =>
    have axes : t.axes = s.axes := by
      obtain whole | first := exec_cmdHandshake_cases done
      · exact whole ▸ txPushAll_axes response
      · exact first ▸ txPush_axes 0x4F#8
    obtain ⟨acq, rate⟩ := Prod.mk.inj axes
    exact ⟨fun _ _ => acq, fun _ _ _ => rate⟩
  | decHi | decLo | decDrop => cases command

/-- Settles O12, by what every command keeps and by whose each axis is. -/
theorem commandsTouchOnlyTheirAxes : Obligations.CommandsTouchOnlyTheirAxes := by
  unfold Obligations.CommandsTouchOnlyTheirAxes
  intro i s command
  obtain ⟨t, done⟩ := exec_command_completes s command
  obtain ⟨host, d2h, h2d, tail, pending, fault, waiting⟩ := commandKeeps_exec command done
  exact ⟨t, done, host, d2h, h2d, tail, pending, fault, waiting, exec_command_axes command done⟩

end Sys2Proof.Machine

/-! ## The response to a handshake

A run of pushes stores bytes until the ring is full and drops the rest; `State.dropped` is what the dropped ones leave.
Taken in sub-steps the response makes the same pushes, since no push reads the position in it. -/

namespace Sys2Proof.Machine

variable {s : State} {bs : List Byte}

/-! ### Pushes for which there is no room -/

/-- `s` once `m` pushes have been refused (41_ring_buffers.md R141). -/
def State.dropped (m : Nat) (s : State) : State :=
  { s with
    txFault := s.txFault || decide (0 < m)
    faultInd := (overflowInd s.cfg.faultIndMode)^[m] s.faultInd
    raised := List.replicate m .txOverflow ++ s.raised }

@[simp] theorem txRead_dropped (m a : Nat) : (s.dropped m).txRead a = s.txRead a := rfl

theorem txPush_eq_dropped (b : Byte) (full : txFull s = true) : txPush b s = s.dropped 1 := by
  rw [txPush_of_full b full]
  simp [State.dropped]

theorem dropped_dropped (m n : Nat) : (s.dropped m).dropped n = s.dropped (m + n) := by
  simp only [State.dropped, State.mk.injEq, ← Function.iterate_add_apply, Nat.add_comm n m, true_and, and_true]
  refine ⟨?_, ?_⟩
  · simp [Bool.or_assoc, ← Bool.decide_or]
  · rw [← List.append_assoc, List.replicate_append_replicate, Nat.add_comm]

theorem dropped_zero : s.dropped 0 = s := by simp [State.dropped]

theorem txPushAll_of_full (full : bs ≠ [] → txFull s = true) : txPushAll bs s = s.dropped bs.length := by
  induction bs generalizing s with
  | nil => exact dropped_zero.symm
  | cons b bs ih =>
    have isFull := full (List.cons_ne_nil b bs)
    rw [txPushAll_cons, txPush_eq_dropped b isFull, ih (s := s.dropped 1) fun _ => isFull, dropped_dropped,
      List.length_cons, Nat.add_comm]

theorem overflowInd_sticky_iterate (m : Nat) (old : Bool) :
    (overflowInd .sticky)^[m] old = (old || decide (0 < m)) := by
  induction m with
  | zero => simp
  | succ m ih => simp [Function.iterate_succ_apply', overflowInd]

theorem overflowInd_toggle_iterate (m : Nat) (old : Bool) :
    (overflowInd .toggle)^[m] old = (old ^^ decide (m % 2 = 1)) := by
  induction m with
  | zero => simp
  | succ m ih =>
    rw [Function.iterate_succ_apply', ih, overflowInd]
    obtain even | odd := Nat.mod_two_eq_zero_or_one m
    · simp [Nat.succ_mod_two_eq_one_iff.2 even, even]
    · simp [Nat.succ_mod_two_eq_zero_iff.2 odd, odd]

/-! ### Pushes for which there is room -/

theorem txFull_eq_false_of_txLive (h : TxOk s) (room : txLive s + 1 < s.cfg.txN) : txFull s = false :=
  txFull_eq_false h (by rwa [liveBytes_length])

/-- Pushes for which there is room change nothing but the cells, the head and the armed drain. -/
theorem txPushAll_eq_of_room (h : TxOk s) (room : txLive s + bs.length < s.cfg.txN) : txPushAll bs s =
    { s with
      txMem := (txPushAll bs s).txMem
      txHead := (s.txHead + bs.length) % s.cfg.txN
      txDrainEn := s.txDrainEn || decide (0 < bs.length) } := by
  induction bs generalizing s with
  | nil => simp [Nat.mod_eq_of_lt h.head_lt]
  | cons b bs ih =>
    rw [List.length_cons] at room
    have hf := txFull_eq_false_of_txLive h (by omega)
    have rest := ih (h.txPush b) (by rw [txLive_txPush h b hf, txPush_cfg]; omega)
    rw [txPushAll_cons, rest, txPush_of_room b hf]
    simp [Nat.add_assoc, Nat.add_comm 1]

/-- A cell no push of the run writes is unchanged. -/
theorem txRead_txPushAll_other {a : Nat} (h : TxOk s) (room : txLive s + bs.length < s.cfg.txN)
    (other : ∀ k < bs.length, a ≠ (s.txHead + k) % s.cfg.txN) : (txPushAll bs s).txRead a = s.txRead a := by
  induction bs generalizing s with
  | nil => rfl
  | cons b bs ih =>
    rw [List.length_cons] at room other
    have hf := txFull_eq_false_of_txLive h (by omega)
    have head : (txPush b s).txHead = (s.txHead + 1) % s.cfg.txN := by rw [txPush_of_room b hf]
    rw [txPushAll_cons, ih (h.txPush b), txRead_txPush_other b (other 0 (by omega))]
    · rw [txLive_txPush h b hf, txPush_cfg]
      omega
    · intro k hk
      rw [head, txPush_cfg, Nat.mod_add_mod, Nat.add_assoc, Nat.add_comm 1]
      exact other (k + 1) (by omega)

theorem liveBytes_getElem? {j : Nat} (hj : j < txLive s) :
    (liveBytes s)[j]? = some (s.txRead ((s.txTail + j) % s.cfg.txN)) := by
  simp [liveBytes, List.getElem?_range hj]

/-- A run for which there is room waits behind what waited before. -/
theorem liveBytes_txPushAll (h : TxOk s) (room : txLive s + bs.length < s.cfg.txN) :
    liveBytes (txPushAll bs s) = liveBytes s ++ bs := by
  obtain ⟨-, live, -⟩ := txPushAll_of_room (bs := bs) h (by rwa [liveBytes_length])
  exact live

theorem txLive_txPushAll (h : TxOk s) (room : txLive s + bs.length < s.cfg.txN) :
    txLive (txPushAll bs s) = txLive s + bs.length := by
  simpa using congrArg List.length (liveBytes_txPushAll h room)

theorem TxOk.txPushAll (h : TxOk s) (bs : List Byte) : TxOk (txPushAll bs s) := by
  induction bs generalizing s with
  | nil => exact h
  | cons b bs ih => exact ih (h.txPush b)

/-- The `k`-th byte of a run stands `k` cells on from where the head was (41_ring_buffers.md R141). -/
theorem txRead_txPushAll_stored {k : Nat} (h : TxOk s) (room : txLive s + bs.length < s.cfg.txN)
    (hk : k < bs.length) : some ((txPushAll bs s).txRead ((s.txHead + k) % s.cfg.txN)) = bs[k]? := by
  have within : txLive s + k < txLive (txPushAll bs s) := by rw [txLive_txPushAll h room]; omega
  have stored := liveBytes_getElem? within
  have tail : (txPushAll bs s).txTail = s.txTail := (commandKeeps_txPushAll bs).txTail
  rw [liveBytes_txPushAll h room, List.getElem?_append_right (by simp), liveBytes_length, Nat.add_sub_cancel_left,
    txPushAll_cfg, tail, ← Nat.add_assoc, ← Nat.mod_add_mod, txTail_add_txLive h] at stored
  exact stored.symm

/-! ### A run of pushes, stored until the ring is full -/

/-- How many of `l` pushes the ring has room for. -/
def State.roomFor (l : Nat) (s : State) : Nat := min l (s.cfg.txN - 1 - txLive s)

theorem roomFor_fits (h : TxOk s) : txLive s + (bs.take (s.roomFor bs.length)).length < s.cfg.txN := by
  have live := txLive_lt h
  rw [List.length_take, State.roomFor]
  omega

theorem txPushAll_append (as : List Byte) : txPushAll (as ++ bs) s = txPushAll bs (txPushAll as s) :=
  List.foldl_append

/-- The bytes there is room for are stored, the others dropped (41_ring_buffers.md R141). -/
theorem txPushAll_eq_dropped (h : TxOk s) (bs : List Byte) : txPushAll bs s =
    (txPushAll (bs.take (s.roomFor bs.length)) s).dropped (bs.length - s.roomFor bs.length) := by
  have fits := roomFor_fits (bs := bs) h
  conv_lhs => rw [← List.take_append_drop (s.roomFor bs.length) bs, txPushAll_append]
  rw [txPushAll_of_full, List.length_drop]
  intro some_left
  rw [txFull_iff_txLive (h.txPushAll _), txLive_txPushAll h fits, txPushAll_cfg]
  rw [ne_eq, List.drop_eq_nil_iff] at some_left
  have live := txLive_lt h
  simp only [List.length_take, State.roomFor] at some_left ⊢
  omega

/-- Settles O9: the response is eight bytes, stored until the ring is full and dropped from there on. -/
theorem cmdHandshakePushesResponse : Obligations.CmdHandshakePushesResponse := by
  unfold Obligations.CmdHandshakePushesResponse
  intro s h whole n
  have room : txLive s + (response.take n).length < s.cfg.txN := roomFor_fits (bs := response) h
  have eq : txPushAll response s = (txPushAll (response.take n) s).dropped (8 - n) := txPushAll_eq_dropped h response
  have n_le : n ≤ 8 := Nat.min_le_left _ _
  have taken : (response.take n).length = n := by rw [List.length_take]; exact Nat.min_eq_left n_le
  refine ⟨_, exec_cmdHandshake_of_whole whole, fun k hk => ?cells, fun a other => ?others, ?registers⟩ <;> rw [eq]
  case cells =>
    rw [txRead_dropped, txRead_txPushAll_stored h room (by omega), List.getElem?_take_of_lt hk]
    rfl
  case others => exact txRead_txPushAll_other h room (by rwa [taken])
  case registers =>
    rw [txPushAll_eq_of_room h room, taken]
    cases mode : s.cfg.faultIndMode with
    | sticky => simp [State.dropped, mode, overflowInd_sticky_iterate]
    | toggle => simp [State.dropped, mode, overflowInd_toggle_iterate]

/-! ### The response in sub-steps (10_state.md R41) -/

/-- `s` with the response as given: how the next operation is taken, and the position in the response. -/
def State.withResponseAt (g : Grain) (pos : Option Nat) (s : State) : State := { s with grain := g, hsPos := pos }

/-- A push reads neither the grain nor the position in the response. -/
theorem txPush_withResponseAt (b : Byte) (g : Grain) (pos : Option Nat) :
    txPush b (s.withResponseAt g pos) = (txPush b s).withResponseAt g pos := by
  rw [txPush_eq, txPush_eq s]
  rfl

theorem txPushAll_withResponseAt (g : Grain) (pos : Option Nat) :
    txPushAll bs (s.withResponseAt g pos) = (txPushAll bs s).withResponseAt g pos := by
  induction bs generalizing s with
  | nil => rfl
  | cons b bs ih => rw [txPushAll_cons, txPush_withResponseAt, ih, txPushAll_cons]

theorem pushResponseByte_eq (k : Nat) (b : Byte) :
    pushResponseByte k b s = { txPush b s with hsPos := if k < 7 then some (k + 1) else none } := by
  have bytes : k + 1 < response.length ↔ k < 7 := Nat.add_lt_add_iff_right
  simp only [pushResponseByte, bytes]

/-- The next byte of a response in progress is pushed, and the position moves on (42_command_channel.md R166). -/
theorem perform_txPush_of_hsPos {k : Nat} {b : Byte} (pos : s.hsPos = some k) (idle : s.convLo = none)
    (next : response[k]? = some b) : perform (.txPush b) s = .next (pushResponseByte k b s) := by
  rw [perform_of_enabled (by simp [enabled, nextPush, idle, pos, next]), take, opTxPush, idle, pos]

/-- Settles O10, by what one sub-step of the response does. -/
theorem cmdHandshakeSubSteps : Obligations.CmdHandshakeSubSteps := by
  unfold Obligations.CmdHandshakeSubSteps
  refine fun s => ⟨fun sub => exec_cmdHandshake_of_subSteps sub, fun k b pos idle next => ?_⟩
  rw [perform_txPush_of_hsPos pos idle next, pushResponseByte_eq]

theorem pushResponseByte_of_subSteps (k : Nat) (b : Byte) (sub : s.grain = .subSteps) :
    pushResponseByte k b s = (txPush b s).withResponseAt .subSteps (if k < 7 then some (k + 1) else none) := by
  rw [pushResponseByte_eq, ← sub, ← txPush_grain s b]
  rfl

theorem withResponseAt_withResponseAt (g g' : Grain) (pos pos' : Option Nat) :
    (s.withResponseAt g pos).withResponseAt g' pos' = s.withResponseAt g' pos' := rfl

theorem performAll_cons_of_next {e : Event} {t : State} (es : List Event) (done : perform e s = .next t) :
    performAll (e :: es) s = performAll es t := by
  rw [performAll, done]

/-- One push of what is left of a response: the position moves on while bytes are left. -/
theorem performAll_response_step {k : Nat} {b : Byte} (idle : s.convLo = none) (sub : s.grain = .subSteps)
    (pos : s.hsPos = some k) (left : response.drop k = b :: bs) :
    performAll ((b :: bs).map .txPush) s =
      performAll (bs.map .txPush)
        ((txPush b s).withResponseAt .subSteps (if bs = [] then none else some (k + 1))) := by
  have next : response[k]? = some b := by rw [← Nat.add_zero k, ← List.getElem?_drop, left]; rfl
  have count : 8 - k = bs.length + 1 := List.length_drop.symm.trans (congrArg List.length left)
  have last : k < 7 ↔ ¬ bs = [] := by rw [← List.length_eq_zero_iff]; omega
  rw [List.map_cons, performAll_cons_of_next _ (perform_txPush_of_hsPos pos idle next),
    pushResponseByte_of_subSteps k b sub]
  simp only [last, ite_not]

theorem withGrain_withResponseAt (g g' : Grain) (pos : Option Nat) :
    { s.withResponseAt g pos with grain := g' } = s.withResponseAt g' pos := rfl

/-- What is left of a response is pushed byte by byte, and then the position is gone. -/
theorem performAll_response_from {k : Nat} {b : Byte} (idle : s.convLo = none) (sub : s.grain = .subSteps)
    (pos : s.hsPos = some k) (left : response.drop k = b :: bs) :
    performAll ((b :: bs).map .txPush) s = .next ((txPushAll (b :: bs) s).withResponseAt .subSteps none) := by
  induction bs generalizing k b s with
  | nil => exact performAll_response_step idle sub pos left
  | cons b' bs ih =>
    have left' : response.drop (k + 1) = b' :: bs := by rw [← List.drop_drop, left]; rfl
    have idle' : (txPush b s).convLo = none := (txPush_convLo s b).trans idle
    rw [performAll_response_step idle sub pos left, if_neg (List.cons_ne_nil _ _),
      ih (s := (txPush b s).withResponseAt .subSteps (some (k + 1))) idle' rfl rfl left', txPushAll_withResponseAt,
      withResponseAt_withResponseAt, ← txPushAll_cons]

theorem withGrain_of_no_response (g : Grain) (pos : s.hsPos = none) :
    { s with grain := g } = s.withResponseAt g none := by
  rw [← pos]
  rfl

/-- The first push of a response in sub-steps keeps position 1. -/
theorem exec_cmdHandshake_withSubSteps (s : State) : exec .cmdHandshake (s.withResponseAt .subSteps none) =
    .next ((txPush 0x4F#8 s).withResponseAt .subSteps (some 1)) := by
  rw [exec_cmdHandshake_of_subSteps rfl, pushResponseByte_of_subSteps 0 _ rfl, txPush_withResponseAt,
    withResponseAt_withResponseAt, if_pos (by decide)]

theorem exec_cmdHandshake_withWhole (s : State) : exec .cmdHandshake (s.withResponseAt .whole none) =
    .next ((txPushAll response s).withResponseAt .whole none) := by
  rw [exec_cmdHandshake_of_whole rfl, txPushAll_withResponseAt]

/-- Settles O11: from position 1 on the other seven bytes are pushed, and no push reads the grain or the position. -/
theorem handshakeSubStepsMakeTheWhole : Obligations.HandshakeSubStepsMakeTheWhole := by
  unfold Obligations.HandshakeSubStepsMakeTheWhole
  intro s pos idle
  rw [withGrain_of_no_response .subSteps pos, withGrain_of_no_response .whole pos]
  refine ⟨_, _, exec_cmdHandshake_withSubSteps s, exec_cmdHandshake_withWhole s, ?_⟩
  have left : response.drop 1 = 0x53#8 :: [0x43#8, 0x5F#8, 0x56#8, 0x31#8, 0x0A#8, 0x6D#8] := rfl
  rw [performAll_response_from (s := (txPush 0x4F#8 s).withResponseAt .subSteps (some 1))
    ((txPush_convLo s _).trans idle) rfl rfl left, txPushAll_withResponseAt, withResponseAt_withResponseAt,
    ← txPushAll_cons, ← response_eq, withGrain_withResponseAt]

end Sys2Proof.Machine

/-! ## The session, operation by operation -/

namespace Sys2Proof.Machine

variable {s t : State}

theorem enabled_hostConnect : enabled .hostConnect s = true ↔ s.hConn = .disconnected ∨ s.hConn = .failed := by
  simp [enabled]

theorem enabled_hostXfault : enabled .hostXfault s = true ↔ s.hConn = .handshaking ∨ s.hConn = .connected := by
  simp [enabled]

theorem enabled_hostTimeout : enabled .hostTimeout s = true ↔ s.hConn = .handshaking := by simp [enabled]

theorem perform_hostSend_of_connected (c : HostCmd) (connected : s.hConn = .connected) :
    perform (.hostSend c) s = .next (hostNote c (hostTx (encodeByte c.instr) s)) :=
  perform_of_enabled (by simp [enabled, connected])

/-- Settles O43: each command's byte goes out and is noted. -/
theorem hostSendUpdatesItsCopy : Obligations.HostSendUpdatesItsCopy := by
  unfold Obligations.HostSendUpdatesItsCopy
  refine fun s => ⟨fun connected => ?_, fun away c => perform_of_not_enabled (by simp [enabled, away])⟩
  exact ⟨perform_hostSend_of_connected .start connected, perform_hostSend_of_connected .stop connected,
    perform_hostSend_of_connected .rate1 connected, perform_hostSend_of_connected .rate10 connected,
    perform_hostSend_of_connected .rate20 connected⟩

/-- Settles O44, by when a session may be opened. -/
theorem hostConnectRequestsHandshake : Obligations.HostConnectRequestsHandshake := by
  unfold Obligations.HostConnectRequestsHandshake
  refine fun s => ⟨fun closed => perform_of_enabled (enabled_hostConnect.2 closed), fun opened => ?_⟩
  refine perform_of_not_enabled (Bool.eq_false_iff.2 fun on => ?_)
  obtain closed | closed := enabled_hostConnect.1 on <;> simp [closed] at opened

/-- An operation enabled exactly under `p` has the step it takes there, and none elsewhere (00_scope.md R12). -/
theorem perform_eq_ite {e : Event} {p : Prop} [Decidable p] (h : enabled e s = true ↔ p) :
    perform e s = if p then take e s else .fault .notEnabled :=
  if_congr h rfl rfl

/-- Settles O46, by when each of the three is enabled. -/
theorem sessionEndsAsTheRulesSay : Obligations.SessionEndsAsTheRulesSay := by
  unfold Obligations.SessionEndsAsTheRulesSay
  exact fun s => ⟨perform_eq_ite enabled_hostTimeout, perform_of_enabled rfl, perform_eq_ite enabled_hostXfault⟩

/-! ### A received byte, by the state of the connection (42_command_channel.md R172) -/

theorem perform_hostRx (b : Byte) (s : State) : perform (.hostRx b) s = opHostRx b s := perform_of_enabled rfl

theorem perform_hostRx_of_closed (b : Byte) (closed : s.hConn = .disconnected ∨ s.hConn = .failed) :
    perform (.hostRx b) s = .next s := by
  obtain away | failed := closed
  · simp [perform_hostRx, opHostRx, away]
  · simp [perform_hostRx, opHostRx, failed]

theorem perform_hostRx_of_handshaking (b : Byte) (waiting : s.hConn = .handshaking) :
    perform (.hostRx b) s = .next (collectHandshake b s) := by
  simp [perform_hostRx, opHostRx, waiting]

theorem collectHandshake_of_not_last (b : Byte) (more : s.hsRx.length ≠ 7) :
    collectHandshake b s = { s with hsRx := s.hsRx ++ [b] } := by
  simp [collectHandshake_eq, more]

/-- Settles O48, by the three ways a byte is routed. -/
theorem receivedByteIsRoutedByConnection : Obligations.ReceivedByteIsRoutedByConnection := by
  unfold Obligations.ReceivedByteIsRoutedByConnection
  refine fun b s => ⟨perform_hostRx_of_closed b, fun waiting more => ?_, fun connected => ?_⟩
  · rw [perform_hostRx_of_handshaking b waiting, collectHandshake_of_not_last b more.ne]
  · rw [perform_hostRx, opHostRx_of_connected b connected]

/-! ### The handshake check (42_command_channel.md R173 to R175) -/

/-- `s` with the eight bytes `rx` collected and judged. -/
def State.judged (rx : List Byte) (s : State) : State :=
  { s with
    hsRx := rx
    hConn := if rx = response then .connected else .failed
    raised := if rx = response then s.raised else .protocolMismatch :: s.raised }

theorem collectHandshake_of_last (b : Byte) (last : s.hsRx.length = 7) :
    collectHandshake b s = s.judged (s.hsRx ++ [b]) := by
  simp [collectHandshake_eq, State.judged, last, ite_not]

/-- The bytes still missing to eight are collected one by one, and the last is followed by the judgement. -/
theorem performAll_hostRx_to_eight {b : Byte} {bs : List Byte} (waiting : s.hConn = .handshaking)
    (eight : s.hsRx.length + (b :: bs).length = 8) :
    performAll ((b :: bs).map .hostRx) s = .next (s.judged (s.hsRx ++ b :: bs)) := by
  rw [List.map_cons, performAll_cons_of_next _ (perform_hostRx_of_handshaking b waiting)]
  induction bs generalizing b s with
  | nil => rw [collectHandshake_of_last b (by simpa using eight)]; rfl
  | cons b' bs ih =>
    simp only [List.length_cons] at eight
    rw [collectHandshake_of_not_last b (by omega), List.map_cons,
      performAll_cons_of_next _ (perform_hostRx_of_handshaking b' (by exact waiting)), ih (by exact waiting)
        (by simp; omega)]
    simp [State.judged]

/-- Settles O45, with nothing collected before the eight bytes. -/
theorem handshakeCheckIsExact : Obligations.HandshakeCheckIsExact := by
  unfold Obligations.HandshakeCheckIsExact
  intro bs s waiting nothing eight
  obtain ⟨b, bs, rfl⟩ := List.exists_cons_of_length_eq_add_one eight
  rw [performAll_hostRx_to_eight waiting (by simpa [nothing] using eight), nothing]
  rfl

/-! ### What an operation can do to the connection (42_command_channel.md R179) -/

/-- What an operation that completed can have done to the connection. -/
inductive ConnMoved (e : Event) (s t : State) : Prop where
  | stays (conn : t.hConn = s.hConn)
  | opens (who : e = .hostConnect) (conn : t.hConn = .handshaking)
  | closes (who : e = .hostDisconnect ∨ e = .hostReset) (conn : t.hConn = .disconnected)
  | fails (live : s.hConn = .handshaking ∨ s.hConn = .connected) (conn : t.hConn = .failed)
  | connects (waiting : s.hConn = .handshaking) (before : s.hsRx = idBytes) (after : t.hsRx = response)
    (conn : t.hConn = .connected)

theorem connMoved_collectHandshake {e : Event} (b : Byte) (waiting : s.hConn = .handshaking) :
    ConnMoved e s (collectHandshake b s) := by
  by_cases last : s.hsRx.length = 7
  · rw [collectHandshake_of_last b last]
    by_cases matching : s.hsRx ++ [b] = response
    · exact .connects waiting (List.append_inj_left' matching rfl) matching (if_pos matching)
    · exact .fails (.inl waiting) (if_neg matching)
  · rw [collectHandshake_of_not_last b last]
    exact .stays rfl

theorem connMoved_opHostRx {e : Event} {b : Byte} (taken : opHostRx b s = .next t) : ConnMoved e s t := by
  obtain same | ⟨waiting, collected⟩ | ⟨-, d, p, latched⟩ | ⟨-, l, delivered⟩ := opHostRx_cases taken
  · rw [same]; exact .stays rfl
  · exact collected ▸ connMoved_collectHandshake b waiting
  · rw [latched]; exact .stays rfl
  · exact .stays (by simp [delivered])

/-- Taking a byte off the queue towards the host moves no connection. -/
theorem ConnMoved.of_popped {e : Event} {q : List Byte} (h : ConnMoved e { s with linkD2h := q } t) :
    ConnMoved e s t := by
  cases h with
  | stays conn => exact .stays conn
  | opens who conn => exact .opens who conn
  | closes who conn => exact .closes who conn
  | fails live conn => exact .fails live conn
  | connects waiting before after conn => exact .connects waiting before after conn

theorem connMoved_opLinkD2h {act : LinkAct} (taken : opLinkD2h act s = .next t) : ConnMoved (.linkD2h act) s t := by
  cases queue : s.linkD2h with
  | nil => simp [opLinkD2h, queue] at taken
  | cons b rest =>
    simp only [opLinkD2h, queue] at taken
    cases act with
    | deliver | garble => exact (connMoved_opHostRx taken).of_popped
    | drop => cases taken; exact .stays rfl

theorem opCmd_hConn {b : Byte} (taken : opCmd b s = .next t) : t.hConn = s.hConn :=
  (commandKeeps_opCmd taken).host.hConn

theorem opLinkH2d_hConn {act : LinkAct} (taken : opLinkH2d act s = .next t) : t.hConn = s.hConn := by
  cases queue : s.linkH2d with
  | nil => simp [opLinkH2d, queue] at taken
  | cons b rest =>
    simp only [opLinkH2d, queue] at taken
    cases act with
    | deliver | garble => exact (opCmd_hConn taken :)
    | drop => cases taken; rfl

theorem opConvDone_hConn {v : Sample} (taken : opConvDone v s = .next t) : t.hConn = s.hConn := by
  obtain whole | first := opConvDone_cases taken
  · simp [whole]
  · simp [first]

theorem opTxPush_hConn {b : Byte} (taken : opTxPush b s = .next t) : t.hConn = s.hConn := by
  obtain low | ⟨k, -, next⟩ := opTxPush_cases taken
  · simp [low]
  · exact next ▸ txPush_hConn s b

theorem opHostSend_hConn {c : HostCmd} (taken : opHostSend c s = .next t) : t.hConn = s.hConn := by
  cases taken
  cases c <;> rfl

theorem opDevReset_hConn {c : ResetCause} (taken : opDevReset c s = .next t) : t.hConn = s.hConn := by
  cases c with
  | powerOn | watchdog | linkOpen => cases taken; rfl

theorem perform_connMoved {e : Event} (done : perform e s = .next t) : ConnMoved e s t := by
  obtain ⟨on, taken⟩ := perform_next done
  cases e with
  | hostConnect => cases taken; exact .opens rfl rfl
  | hostDisconnect => cases taken; exact .closes (.inl rfl) rfl
  | hostReset => cases taken; exact .closes (.inr rfl) rfl
  | hostTimeout => cases taken; exact .fails (.inl (enabled_hostTimeout.1 on)) rfl
  | hostXfault => cases taken; exact .fails (enabled_hostXfault.1 on) rfl
  | hostRx b => exact connMoved_opHostRx taken
  | linkD2h act => exact connMoved_opLinkD2h taken
  | linkH2d act => exact .stays (opLinkH2d_hConn taken)
  | cmd b => exact .stays (opCmd_hConn taken)
  | convDone v => exact .stays (opConvDone_hConn taken)
  | txPush b => exact .stays (opTxPush_hConn taken)
  | hostSend c => exact .stays (opHostSend_hConn taken)
  | devReset c => exact .stays (opDevReset_hConn taken)
  | txDrain => cases taken; exact .stays (txDrain_hConn s)
  | tick | hsReadRecent | dspDone | setGrain => cases taken; exact .stays rfl

/-- Settles O47, read off what every operation can have done to the connection. -/
theorem onlyHostConnectOpensASession : Obligations.OnlyHostConnectOpensASession := by
  unfold Obligations.OnlyHostConnectOpensASession
  intro e s t done
  cases perform_connMoved done with
  | stays conn => rw [conn]; exact ⟨.inl, .inl, fun away connected => absurd connected away⟩
  | opens who conn => simp [who, conn]
  | closes who conn => simp [who, conn]
  | fails live conn =>
    obtain waiting | connected := live
    · simp [waiting, conn]
    · simp [connected, conn]
  | connects waiting before after conn => simpa [waiting, conn] using ⟨before, after⟩

end Sys2Proof.Machine

/-! ## The backpressure law, operation by operation

A sequence's counts are sums over its operations, so the law is an account of one operation: what it starts, what it
completes, and the gate before and after it (43_backpressure.md R197). -/

namespace Sys2Proof.Machine

variable {s : State}

/-! ### A counted Sample (43_backpressure.md R191, R193, R194) -/

theorem thresholdHit_iff : thresholdHit s = true ↔ s.bpCount + 1 ≥ s.cfg.thresh s.hRate := decide_eq_true_iff

/-- A request that is not accepted shows neither in the gate nor in the window, so what is seen is a start. -/
theorem passStarts_bpCount (s : State) : passStarts s (bpCount s) = bpStarts s := by
  cases starts : bpStarts s with
  | true =>
    have idle : s.dspBusy = false := (bpStarts_iff.1 starts).2
    simp [bpCount_of_starts starts, passStarts, idle]
  | false => cases busy : s.dspBusy <;> simp [bpCount_of_not_starts starts, passStarts, busy]

theorem bpCount_dspBusy (s : State) : (bpCount s).dspBusy = (s.dspBusy || bpStarts s) := by
  cases starts : bpStarts s with
  | true => simp [bpCount_of_starts starts]
  | false => simp [bpCount_of_not_starts starts]

theorem bpCount_of_dropped (hit : s.bpCount + 1 ≥ s.cfg.thresh s.hRate) (busy : s.dspBusy = true) :
    bpCount s = { s with bpCount := 0 } := by
  rw [bpCount_of_not_starts (bpStarts_eq_false_iff.2 (.inr busy)), if_pos (thresholdHit_iff.2 hit)]

/-! ### A `DSP.DONE`, taken only while it is enabled (43_backpressure.md R196) -/

theorem perform_dspDone_of_idle (idle : s.dspBusy = false) : perform .dspDone s = .fault .notEnabled :=
  perform_of_not_enabled idle

/-- Settles O30: the two values of the gate. -/
theorem dspDonePublishes : Obligations.DspDonePublishes := by
  unfold Obligations.DspDonePublishes
  exact fun s => ⟨perform_dspDone, perform_dspDone_of_idle⟩

theorem bpOp_sample (s : State) : bpOp true s = bpCount s := rfl

theorem bpOp_done_of_busy (busy : s.dspBusy = true) :
    bpOp false s = publish (Config.num.pass s.cfg s.rawWindow s.passFs) s := by
  simp [bpOp, perform_dspDone busy]

theorem bpOp_done_of_idle (idle : s.dspBusy = false) : bpOp false s = s := by
  simp [bpOp, perform_dspDone_of_idle idle]

theorem bpOp_done_dspBusy (s : State) : (bpOp false s).dspBusy = false := by
  cases gate : s.dspBusy with
  | true => rw [bpOp_done_of_busy gate, publish_dspBusy]
  | false => rw [bpOp_done_of_idle gate, gate]

theorem passStarts_bpOp_done (s : State) : passStarts s (bpOp false s) = false := by
  rw [passStarts, bpOp_done_dspBusy, Bool.false_and]

/-! ### The account of one operation, and of a sequence -/

theorem hit_of_passStarts_bpOp {o : Bool} (starts : passStarts s (bpOp o s) = true) : (o && thresholdHit s) = true := by
  cases o with
  | true =>
    rw [bpOp_sample, passStarts_bpCount] at starts
    exact thresholdHit_iff.2 (bpStarts_iff.1 starts).1
  | false => simp [passStarts_bpOp_done] at starts

/-- Starts and the gate before balance completions and the gate after: a start closes an open gate, a completion opens a
closed one, and nothing else moves it. -/
theorem bpOp_balance (o : Bool) (s : State) :
    (if passStarts s (bpOp o s) then 1 else 0) + s.dspBusy.toNat =
      (if !o && enabled .dspDone s then 1 else 0) + (bpOp o s).dspBusy.toNat := by
  cases o with
  | true =>
    have once : bpStarts s = true → s.dspBusy = false := fun starts => (bpStarts_iff.1 starts).2
    rw [bpOp_sample, passStarts_bpCount, bpCount_dspBusy]
    cases starts : bpStarts s with
    | true => simp [once starts]
    | false => simp
  | false =>
    have gate : enabled .dspDone s = s.dspBusy := rfl
    rw [passStarts_bpOp_done, bpOp_done_dspBusy, gate]
    cases s.dspBusy <;> rfl

theorem bpStarted_le_bpHits (ops : List Bool) (s : State) : bpStarted ops s ≤ bpHits ops s := by
  induction ops generalizing s with
  | nil => rfl
  | cons o os ih =>
    refine Nat.add_le_add ?_ (ih _)
    by_cases starts : passStarts s (bpOp o s) = true
    · rw [if_pos starts, if_pos (hit_of_passStarts_bpOp starts)]
    · rw [if_neg starts]
      exact Nat.zero_le _

theorem bpStarted_balance (ops : List Bool) (s : State) :
    bpStarted ops s + s.dspBusy.toNat = bpCompleted ops s + (bpRun ops s).dspBusy.toNat := by
  induction ops generalizing s with
  | nil => rfl
  | cons o os ih =>
    have first := bpOp_balance o s
    have rest := ih (bpOp o s)
    simp only [bpStarted, bpCompleted, bpRun]
    omega

/-- Settles O28: what one count starts or drops, then the account of a sequence. -/
theorem passesNeverOutrunHits : Obligations.PassesNeverOutrunHits := by
  unfold Obligations.PassesNeverOutrunHits
  refine ⟨fun s => ⟨?starts, bpCount_of_dropped⟩, fun ops s => ⟨bpStarted_le_bpHits ops s, bpStarted_balance ops s⟩⟩
  case starts => rw [passStarts_bpCount, bpStarts_iff]

end Sys2Proof.Machine

/-! ## The transform the butterflies compute

Decimation in time: after stage `s` each block of `2^s` cells holds the transform, by its definition, of the inputs that
the bit-reversed load put into it. -/

namespace Sys2Proof.Dsp

theorem sum_range_two_mul (f : Nat → ℂ) (m : Nat) :
    ∑ n ∈ Finset.range (2 * m), f n = ∑ n ∈ Finset.range m, f (2 * n) + ∑ n ∈ Finset.range m, f (2 * n + 1) := by
  induction m with
  | zero => simp
  | succ m ih =>
    rw [show 2 * (m + 1) = 2 * m + 1 + 1 by ring]
    simp only [Finset.sum_range_succ, ih]
    ring

/-- A transform of even size from those of the even and of the odd inputs. -/
theorem dft_two_mul (m : Nat) (xp : Nat → ℂ) (k : Nat) :
    dft (2 * m) xp k =
      dft m (fun n => xp (2 * n)) k + twiddle k (2 * m) * dft m (fun n => xp (2 * n + 1)) k := by
  rcases Nat.eq_zero_or_pos m with rfl | pos
  · simp [dft]
  have nonzero : (m : ℂ) ≠ 0 := Nat.cast_ne_zero.2 pos.ne'
  simp only [dft, twiddle, sum_range_two_mul, Finset.mul_sum]
  congr 1 <;> refine Finset.sum_congr rfl fun n _ => ?_
  · congr 2
    push_cast
    field_simp
  · rw [mul_left_comm, ← Complex.exp_add]
    congr 2
    push_cast
    field_simp
    ring

theorem exp_neg_two_pi_mul_nat (n : Nat) : Complex.exp (-2 * Real.pi * Complex.I * n) = 1 := by
  rw [show -2 * (Real.pi : ℂ) * Complex.I * n = ((-n : ℤ) : ℂ) * (2 * Real.pi * Complex.I) by push_cast; ring,
    Complex.exp_int_mul_two_pi_mul_I]

/-- The bins repeat with the size of the transform. -/
theorem dft_add_size (m : Nat) (xp : Nat → ℂ) (k : Nat) : dft m xp (k + m) = dft m xp k := by
  refine Finset.sum_congr rfl fun n hn => ?_
  have nonzero : (m : ℂ) ≠ 0 := Nat.cast_ne_zero.2 (by simp at hn; omega)
  rw [← mul_one (Complex.exp (-2 * Real.pi * Complex.I * k * n / m)), ← exp_neg_two_pi_mul_nat n, ← Complex.exp_add]
  congr 2
  push_cast
  field_simp
  ring

/-- Half a turn negates a twiddle factor. -/
theorem twiddle_add_half {m : Nat} (pos : 0 < m) (j : Nat) : twiddle (j + m) (2 * m) = -twiddle j (2 * m) := by
  have nonzero : (m : ℂ) ≠ 0 := Nat.cast_ne_zero.2 pos.ne'
  have turn : -2 * (Real.pi : ℂ) * Complex.I * ((j + m : Nat) : ℂ) / ((2 * m : Nat) : ℂ) =
      -2 * Real.pi * Complex.I * j / ((2 * m : Nat) : ℂ) - Real.pi * Complex.I := by
    push_cast
    field_simp
    ring
  rw [twiddle, turn, Complex.exp_sub, Complex.exp_pi_mul_I, div_neg, div_one, twiddle]

/-- A butterfly joins the transforms of the two halves of its block (45_fft_butterfly.md R232). -/
theorem bfly_dft {m : Nat} (pos : 0 < m) (xp : Nat → ℂ) (j : Nat) :
    bfly (dft m (fun n => xp (2 * n)) j) (dft m (fun n => xp (2 * n + 1)) j) (twiddle j (2 * m)) =
      (dft (2 * m) xp j, dft (2 * m) xp (j + m)) := by
  rw [dft_two_mul, dft_two_mul, dft_add_size, dft_add_size, twiddle_add_half pos]
  simp [bfly, sub_eq_add_neg]

theorem bitRev_two_mul (r c : Nat) : bitRev (r + 1) (2 * c) = bitRev r c := by simp [bitRev]

theorem bitRev_two_mul_add_one (r c : Nat) : bitRev (r + 1) (2 * c + 1) = 2 ^ r + bitRev r c := by
  simp [bitRev, Nat.mul_add_div]

section Stage
variable {α : Type} [Add α] [Sub α] [Mul α] (tw : Nat → Nat → α) (s : Nat) (a : Nat → α) (c : Nat)

theorem mul_add_div_of_lt {n i : Nat} (hi : i < n) : (c * n + i) / n = c := by
  rw [mul_comm, Nat.mul_add_div (by omega), Nat.div_eq_of_lt hi, add_zero]

/-- Cell `i` of block `c` after a stage: the upper or the lower output of its butterfly (45_fft_butterfly.md R234). -/
theorem stage_block {i : Nat} (hi : i < 2 * 2 ^ s) : stage tw (s + 1) a (c * 2 ^ (s + 1) + i) =
    if i < 2 ^ s then (bfly (a (2 * c * 2 ^ s + i)) (a ((2 * c + 1) * 2 ^ s + i)) (tw i (2 * 2 ^ s))).1
    else (bfly (a (2 * c * 2 ^ s + (i - 2 ^ s))) (a ((2 * c + 1) * 2 ^ s + (i - 2 ^ s)))
      (tw (i - 2 ^ s) (2 * 2 ^ s))).2 := by
  have base : c * (2 * 2 ^ s) = 2 * c * 2 ^ s := by ring
  have half (j : Nat) : 2 * c * 2 ^ s + j + 2 ^ s = (2 * c + 1) * 2 ^ s + j := by ring
  simp only [stage, Nat.add_sub_cancel, pow_succ', mul_add_div_of_lt c hi, Nat.mul_add_mod_of_lt hi]
  simp only [base, half]

end Stage

/-- After stage `s` of a transform of size `2^(s+r)` cell `j` of block `c` holds bin `j` of the transform of every
`2^r`-th input on from `rev_r(c)`. -/
theorem stages_eq_dft (xp : Nat → ℂ) (s r c j : Nat) (hj : j < 2 ^ s) :
    stages twiddle s (bitRevLoad (s + r) xp) (c * 2 ^ s + j) =
      dft (2 ^ s) (fun n => xp (n * 2 ^ r + bitRev r c)) j := by
  induction s generalizing r c j with
  | zero =>
    obtain rfl : j = 0 := by simpa using hj
    simp [stages, bitRevLoad, dft]
  | succ s ih =>
    have size : s + 1 + r = s + (r + 1) := by omega
    have even (j : Nat) (hj : j < 2 ^ s) : stages twiddle s (bitRevLoad (s + 1 + r) xp) (2 * c * 2 ^ s + j) =
        dft (2 ^ s) (fun n => xp (2 * n * 2 ^ r + bitRev r c)) j := by
      rw [size, ih (r + 1) (2 * c) j hj, bitRev_two_mul]
      refine congrArg (dft (2 ^ s) · j) (funext fun n => congrArg xp ?_)
      ring
    have odd (j : Nat) (hj : j < 2 ^ s) : stages twiddle s (bitRevLoad (s + 1 + r) xp) ((2 * c + 1) * 2 ^ s + j) =
        dft (2 ^ s) (fun n => xp ((2 * n + 1) * 2 ^ r + bitRev r c)) j := by
      rw [size, ih (r + 1) (2 * c + 1) j hj, bitRev_two_mul_add_one]
      refine congrArg (dft (2 ^ s) · j) (funext fun n => congrArg xp ?_)
      ring
    have joined := bfly_dft (Nat.two_pow_pos s) fun n => xp (n * 2 ^ r + bitRev r c)
    rw [stages, stage_block _ _ _ _ (by rwa [← pow_succ']), pow_succ']
    split_ifs with upper
    case pos => rw [even j upper, odd j upper, joined]
    case neg =>
      have lower : j - 2 ^ s < 2 ^ s := by rw [pow_succ'] at hj; omega
      rw [even _ lower, odd _ lower, joined, Nat.sub_add_cancel (not_lt.1 upper)]

/-- The butterfly datapath computes the transform (44_dsp_pipeline.md R207, 45_fft_butterfly.md R236). -/
theorem fft_twiddle_eq_dft (m : Nat) (xp : Nat → ℂ) {k : Nat} (hk : k < 2 ^ m) :
    fft twiddle m xp k = dft (2 ^ m) xp k := by
  simpa [fft, bitRev] using stages_eq_dft xp m 0 0 k hk

end Sys2Proof.Dsp

/-! ## The Hamming window (44_dsp_pipeline.md R204, R205) -/

namespace Sys2Proof.Dsp

theorem hamming_one (n : Nat) : hamming 1 n = 1 := if_pos rfl

theorem hamming_of_two_le {l : Nat} (hl : 2 ≤ l) (n : Nat) :
    hamming l n = 0.54 - 0.46 * Real.cos (2 * Real.pi * n / ((l : ℝ) - 1)) := if_neg (by omega)

theorem hamming_ge {l : Nat} (hl : 2 ≤ l) (n : Nat) : 0.08 ≤ hamming l n := by
  have := Real.cos_le_one (2 * Real.pi * n / ((l : ℝ) - 1))
  rw [hamming_of_two_le hl]
  linarith

theorem hamming_pos {l : Nat} (hl : 1 ≤ l) (n : Nat) : 0 < hamming l n := by
  rcases hl.eq_or_lt with rfl | hl
  · rw [hamming_one]
    exact one_pos
  · linarith [hamming_ge hl n]

theorem hamming_zero {l : Nat} (hl : 2 ≤ l) : hamming l 0 = 0.08 := by
  rw [hamming_of_two_le hl]
  norm_num

/-- From the end of the window the angle is a full turn less the angle from its start. -/
theorem hamming_symm {l n : Nat} (hl : 2 ≤ l) (hn : n < l) : hamming l (l - 1 - n) = hamming l n := by
  have nonzero : (l : ℝ) - 1 ≠ 0 := by
    have : (2 : ℝ) ≤ l := by exact_mod_cast hl
    linarith
  have turn : 2 * Real.pi * ((l - 1 - n : Nat) : ℝ) / ((l : ℝ) - 1) =
      2 * Real.pi - 2 * Real.pi * n / ((l : ℝ) - 1) := by
    rw [Nat.cast_sub (by omega), Nat.cast_sub (by omega)]
    field_simp
    push_cast
    ring
  rw [hamming_of_two_le hl, hamming_of_two_le hl, turn, Real.cos_two_pi_sub]

theorem hamming_last {l : Nat} (hl : 2 ≤ l) : hamming l (l - 1) = 0.08 := by
  rw [← hamming_zero hl, ← hamming_symm hl (by omega : 0 < l), Nat.sub_zero]

/-- Halfway through an odd window the angle is half a turn. -/
theorem hamming_middle {l : Nat} (hl : 2 ≤ l) (odd : l % 2 = 1) : hamming l ((l - 1) / 2) = 1 := by
  obtain ⟨h, rfl⟩ : ∃ h, l = 2 * h + 1 := ⟨l / 2, by omega⟩
  have nonzero : (h : ℝ) ≠ 0 := Nat.cast_ne_zero.2 (by omega)
  have half_turn : 2 * Real.pi * h / (((2 * h + 1 : Nat) : ℝ) - 1) = Real.pi := by
    push_cast
    field_simp
    ring
  rw [hamming_of_two_le hl, Nat.add_sub_cancel, Nat.mul_div_cancel_left _ two_pos, half_turn, Real.cos_pi]
  norm_num

/-- Settles O36, from the values of the cosine. -/
theorem hammingWindowShape : Obligations.HammingWindowShape := by
  unfold Obligations.HammingWindowShape
  exact ⟨hamming_one 0, fun l hl =>
    ⟨fun n hn => ⟨hamming_of_two_le hl n, (hamming_symm hl hn).symm, hamming_ge hl n,
        (le_abs_self _).trans (abs_hamming_le l n)⟩,
      hamming_zero hl, hamming_last hl, hamming_middle hl⟩⟩

theorem sum_map_range (f : Nat → ℝ) (l : Nat) : ((List.range l).map f).sum = ∑ n ∈ Finset.range l, f n := rfl

theorem windowSum_eq (w : Nat → ℝ) (l : Nat) : windowSum w l = ∑ n ∈ Finset.range l, w n := rfl

/-- The cosines of the `k`-th parts of a turn balance out. -/
theorem sum_cos_turn {k : Nat} (hk : 2 ≤ k) : ∑ n ∈ Finset.range k, Real.cos (2 * Real.pi * n / k) = 0 := by
  have roots := (Complex.isPrimitiveRoot_exp k (by omega)).geom_sum_eq_zero hk
  have re (n : Nat) : (Complex.exp (2 * Real.pi * Complex.I / k) ^ n).re = Real.cos (2 * Real.pi * n / k) := by
    rw [← Complex.exp_nat_mul, ← Complex.exp_ofReal_mul_I_re]
    congr 2
    push_cast
    ring
  simpa [re] using congrArg Complex.re roots

/-- Over the window the cosines add up to that of its last coefficient, a full turn. -/
theorem sum_cos_window {l : Nat} (hl : 3 ≤ l) :
    ∑ n ∈ Finset.range l, Real.cos (2 * Real.pi * n / ((l : ℝ) - 1)) = 1 := by
  obtain ⟨k, rfl⟩ := Nat.exists_eq_add_of_le' (show 1 ≤ l by omega)
  have nonzero : (k : ℝ) ≠ 0 := Nat.cast_ne_zero.2 (by omega)
  rw [Nat.cast_add_one, add_sub_cancel_right, Finset.sum_range_succ, sum_cos_turn (by omega),
    mul_div_cancel_right₀ _ nonzero, Real.cos_two_pi, zero_add]

theorem windowSum_hamming_of_three_le {l : Nat} (hl : 3 ≤ l) : windowSum (hamming l) l = 0.54 * l - 0.46 := by
  simp only [windowSum_eq, hamming_of_two_le (Nat.le_of_succ_le hl), Finset.sum_sub_distrib, ← Finset.mul_sum,
    sum_cos_window hl, Finset.sum_const, Finset.card_range, nsmul_eq_mul]
  ring

theorem windowSum_hamming_pos {l : Nat} (hl : 1 ≤ l) : 0 < windowSum (hamming l) l :=
  Finset.sum_pos (fun n _ => hamming_pos hl n) (Finset.nonempty_range_iff.2 (by omega))

/-- Settles O37: the two short windows coefficient by coefficient, the others by the sum of their cosines. -/
theorem windowSumClosedForm : Obligations.WindowSumClosedForm := by
  unfold Obligations.WindowSumClosedForm
  refine ⟨?one, ?two, fun l => windowSum_hamming_of_three_le, fun l => windowSum_hamming_pos⟩
  case one => simp [windowSum_eq, hamming_one]
  case two =>
    have last : hamming 2 1 = 0.08 := hamming_last le_rfl
    rw [windowSum_eq, Finset.sum_range_succ, Finset.sum_range_one, hamming_zero le_rfl, last]
    norm_num

end Sys2Proof.Dsp

/-! ## The FFT size (44_dsp_pipeline.md R206) -/

namespace Sys2Proof.Dsp

theorem fftSize_le_two_pow {l fftMin m : Nat} (h : max l fftMin ≤ 2 ^ m) : fftSize l fftMin ≤ 2 ^ m :=
  Nat.pow_le_pow_right two_pos (Nat.clog_le_of_le_pow h)

theorem le_fftSize (l fftMin : Nat) : max l fftMin ≤ fftSize l fftMin := Nat.le_pow_clog one_lt_two _

/-- Settles O38, by what the logarithm rounded up is. -/
theorem fftSizeIsLeastPowerOfTwo : Obligations.FftSizeIsLeastPowerOfTwo := by
  unfold Obligations.FftSizeIsLeastPowerOfTwo
  refine fun l fftMin x _ => ⟨⟨_, rfl⟩, le_fftSize l fftMin, fun m => fftSize_le_two_pow, fun n => ?_⟩
  split_ifs with inside
  · exact List.getD_eq_getElem x 0 inside
  · exact List.getD_eq_default x 0 (not_lt.1 inside)

end Sys2Proof.Dsp

/-! ## The search for the dominant bin (44_dsp_pipeline.md R213) -/

namespace Sys2Proof.Dsp

/-- What the search has found among the bins below `n`, `adm` saying which bins are admitted. -/
def PeakFound (adm : Nat → Prop) (freq mag : Nat → ℝ) (n : Nat) (best : ℝ × ℝ) : Prop :=
  (best = (0, 0) ∧ ∀ k < n, adm k → mag k ≤ 0) ∨
  ∃ k < n, adm k ∧ 0 < mag k ∧ best = (freq k, mag k) ∧
    (∀ j < n, adm j → mag j ≤ mag k) ∧ ∀ j < k, adm j → mag j < mag k

section Peak
variable {adm : Nat → Prop} {freq mag : Nat → ℝ} {n : Nat} {best : ℝ × ℝ}

theorem PeakFound.nonneg (h : PeakFound adm freq mag n best) : 0 ≤ best.2 := by
  obtain ⟨rfl, -⟩ | ⟨k, -, -, pos, rfl, -⟩ := h
  · exact le_rfl
  · exact pos.le

theorem PeakFound.greatest (h : PeakFound adm freq mag n best) {j : Nat} (hj : j < n) (admitted : adm j) :
    mag j ≤ best.2 := by
  obtain ⟨rfl, low⟩ | ⟨k, -, -, -, rfl, most, -⟩ := h
  · exact low j hj admitted
  · exact most j hj admitted

/-- A greater admitted bin takes the place of the best so far. -/
theorem PeakFound.take (h : PeakFound adm freq mag n best) (admitted : adm n) (greater : best.2 < mag n) :
    PeakFound adm freq mag (n + 1) (freq n, mag n) := by
  have below (j : Nat) (hj : j < n) (ha : adm j) : mag j < mag n := (h.greatest hj ha).trans_lt greater
  refine .inr ⟨n, n.lt_succ_self, admitted, h.nonneg.trans_lt greater, rfl, fun j hj ha => ?_, below⟩
  rcases Nat.lt_succ_iff_lt_or_eq.1 hj with hj | rfl
  · exact (below j hj ha).le
  · exact le_rfl

/-- Any other bin leaves it. -/
theorem PeakFound.keep (h : PeakFound adm freq mag n best) (not_greater : adm n → mag n ≤ best.2) :
    PeakFound adm freq mag (n + 1) best := by
  have all (j : Nat) (hj : j < n + 1) (ha : adm j) : mag j ≤ best.2 := by
    rcases Nat.lt_succ_iff_lt_or_eq.1 hj with hj | rfl
    · exact h.greatest hj ha
    · exact not_greater ha
  obtain ⟨rfl, -⟩ | ⟨k, hk, admitted, pos, rfl, -, first⟩ := h
  · exact .inl ⟨rfl, all⟩
  · exact .inr ⟨k, hk.trans n.lt_succ_self, admitted, pos, rfl, all, first⟩

end Peak

theorem peakSearch_found (fMin : ℝ) (fs m : Nat) (spec : List ℝ) :
    PeakFound (fun k => fMin ≤ binFreq fs m k) (binFreq fs m) (spec.getD · 0) spec.length
      (peakSearch fMin fs m spec) := by
  unfold peakSearch
  generalize spec.length = n
  induction n with
  | zero => exact .inl ⟨rfl, by simp⟩
  | succ n ih =>
    rw [List.range_succ, List.foldl_append, List.foldl_cons, List.foldl_nil]
    split_ifs with greater
    · exact ih.take greater.1 greater.2
    · exact ih.keep fun admitted => not_lt.1 fun more => greater ⟨admitted, more⟩

/-- Settles O40: what the search has found when it has seen every bin. -/
theorem peakSearchFindsLowestMaximum : Obligations.PeakSearchFindsLowestMaximum := by
  unfold Obligations.PeakSearchFindsLowestMaximum
  intro fMin fs m spec adm
  obtain ⟨not_found, low⟩ | ⟨k, hk, admitted, pos, found, most, first⟩ := peakSearch_found fMin fs m spec
  · exact .inl ⟨not_found, fun k hk => low k hk.1 hk.2⟩
  · exact .inr ⟨k, ⟨hk, admitted⟩, pos, found, fun j hj => most j hj.1 hj.2, fun j hj ha => first j hj ha.2⟩

end Sys2Proof.Dsp

/-! ## The pass over the real numbers -/

namespace Sys2Proof.Dsp

theorem volts_ne_nil {vref adcRes : ℝ} {r : List Nat} (hr : r ≠ []) : volts vref adcRes r ≠ [] := by
  simpa [volts] using hr

theorem idealPass_nil (a : RealParams) (p : Params) (fs : Rate) : idealPass a p [] fs = emptyResult ℝ := by
  rw [idealPass, volts, List.map_nil, passOfVolts, if_pos rfl]

theorem idealPass_of_ne_nil (a : RealParams) (p : Params) {r : List Nat} (fs : Rate) (hr : r ≠ []) :
    idealPass a p r fs =
      { spec := spectrum p.fftMin (volts a.vref a.adcRes r)
        m := fftSize (volts a.vref a.adcRes r).length p.fftMin
        stats := statistics a.fMin fs.hz (fftSize (volts a.vref a.adcRes r).length p.fftMin)
          (volts a.vref a.adcRes r) (spectrum p.fftMin (volts a.vref a.adcRes r)) } :=
  if_neg (volts_ne_nil hr)

theorem pass_nil (n : NumStages) (p : Params) (fs : Rate) : n.pass p [] fs = emptyResult ℚ := if_pos rfl

/-- Settles O42: both passes answer an empty window before any stage. -/
theorem emptyWindowGivesZeroResult : Obligations.EmptyWindowGivesZeroResult := by
  unfold Obligations.EmptyWindowGivesZeroResult
  exact fun a p fs _ => ⟨idealPass_nil a p fs, pass_nil _ p fs⟩

/-! ### The least and the greatest of the voltages (44_dsp_pipeline.md R211) -/

theorem leastOf_spec {v : List ℝ} (hv : v ≠ []) : leastOf v ∈ v ∧ ∀ x ∈ v, leastOf v ≤ x := by
  obtain ⟨x, xs, rfl⟩ := List.exists_cons_of_ne_nil hv
  exact List.min?_eq_some_iff.1 List.min?_cons'

theorem greatestOf_spec {v : List ℝ} (hv : v ≠ []) : greatestOf v ∈ v ∧ ∀ x ∈ v, x ≤ greatestOf v := by
  obtain ⟨x, xs, rfl⟩ := List.exists_cons_of_ne_nil hv
  exact List.max?_eq_some_iff.1 List.max?_cons'

/-! ### The spectrum, bin by bin (44_dsp_pipeline.md R203 to R209) -/

/-- What stages 2 to 4 make of the voltages `v`: the transform's input. -/
noncomputable def paddedSignal (v : List ℝ) (n : Nat) : ℂ :=
  ((padded (windowed (hamming v.length) (removeDc v)) n : ℝ) : ℂ)

theorem paddedSignal_eq (v : List ℝ) (n : Nat) : paddedSignal v n =
    if n < v.length then (((v.getD n 0 - mean v) * hamming v.length n : ℝ) : ℂ) else 0 := by
  have length : (windowed (hamming v.length) (removeDc v)).length = v.length := by simp [windowed, removeDc]
  rw [paddedSignal, padded]
  split_ifs with inside
  · rw [List.getD_eq_getElem _ _ (length.symm ▸ inside), List.getD_eq_getElem _ _ inside]
    simp [windowed, removeDc]
  · rw [List.getD_eq_default _ _ (by omega), Complex.ofReal_zero]

theorem transform_eq_dft (fftMin : Nat) (v : List ℝ) {k : Nat} (hk : k < fftSize v.length fftMin) :
    transform fftMin v k = dft (fftSize v.length fftMin) (paddedSignal v) k := fft_twiddle_eq_dft _ _ hk

theorem magnitude_zero (s : ℝ) (x : Nat → ℂ) : magnitude s x 0 = |(x 0).re| / s := if_pos rfl

theorem magnitude_of_pos (s : ℝ) (x : Nat → ℂ) {k : Nat} (hk : 1 ≤ k) : magnitude s x k = ‖x k‖ * 2 / s := by
  rw [magnitude, if_neg (by omega), Complex.norm_eq_sqrt_sq_add_sq]

theorem spectrum_length (fftMin : Nat) (v : List ℝ) : (spectrum fftMin v).length = fftSize v.length fftMin / 2 := by
  simp [spectrum]

theorem spectrum_getD (fftMin : Nat) (v : List ℝ) {k : Nat} (hk : k < fftSize v.length fftMin / 2) :
    (spectrum fftMin v).getD k 0 =
      magnitude (windowSum (hamming v.length) v.length) (dft (fftSize v.length fftMin) (paddedSignal v)) k := by
  have bin : transform fftMin v k = _ := transform_eq_dft fftMin v (show k < fftSize v.length fftMin by omega)
  have bin_zero : transform fftMin v 0 = _ := transform_eq_dft fftMin v (show 0 < fftSize v.length fftMin by omega)
  rw [List.getD_eq_getElem _ _ (by rwa [spectrum_length])]
  simp [spectrum, magnitude, bin, bin_zero]

/-- At least one bin is kept (44_dsp_pipeline.md R206, R208). -/
theorem one_le_fftSize_div_two {l fftMin : Nat} (h : 2 ≤ fftMin) : 1 ≤ fftSize l fftMin / 2 := by
  have := (le_max_right l fftMin).trans (le_fftSize l fftMin)
  omega

/-! ### The statistics of voltages given by their formula (44_dsp_pipeline.md R201, R202, R210) -/

theorem volts_eq_map_range (vref adcRes : ℝ) (r : List Nat) : volts vref adcRes r =
    (List.range r.length).map fun n => (r.getD n 0 : ℝ) * vref / adcRes := by
  refine List.ext_getElem (by simp [volts]) fun n hn _ => ?_
  have inside : n < r.length := by simpa [volts] using hn
  simp [volts, inside]

section MapRange
variable (f : Nat → ℝ) (l : Nat)

theorem mean_map_range : mean ((List.range l).map f) = (∑ n ∈ Finset.range l, f n) / l := by
  rw [mean, sum_map_range, List.length_map, List.length_range]

theorem meanSquare_map_range : meanSquare ((List.range l).map f) = (∑ n ∈ Finset.range l, f n ^ 2) / l := by
  simp only [meanSquare, List.map_map, sum_map_range, List.length_map, List.length_range, Function.comp_apply, sq]

theorem getD_map_range {n : Nat} (hn : n < l) : ((List.range l).map f).getD n 0 = f n := by
  rw [List.getD_eq_getElem _ _ (by simpa using hn), List.getElem_map, List.getElem_range]

variable {l} in
theorem leastOf_map_range (hl : l ≠ 0) : (∃ n < l, f n = leastOf ((List.range l).map f)) ∧
    ∀ n < l, leastOf ((List.range l).map f) ≤ f n := by
  simpa using leastOf_spec (v := (List.range l).map f) (by simpa using hl)

variable {l} in
theorem greatestOf_map_range (hl : l ≠ 0) : (∃ n < l, f n = greatestOf ((List.range l).map f)) ∧
    ∀ n < l, f n ≤ greatestOf ((List.range l).map f) := by
  simpa using greatestOf_spec (v := (List.range l).map f) (by simpa using hl)

theorem paddedSignal_map_range : paddedSignal ((List.range l).map f) = fun n =>
    if n < l then (((f n - (∑ n ∈ Finset.range l, f n) / l) * hamming l n : ℝ) : ℂ) else 0 := by
  funext n
  rw [paddedSignal_eq, mean_map_range, List.length_map, List.length_range]
  split_ifs with inside
  · rw [getD_map_range f l inside]
  · rfl

end MapRange

/-- Settles O41: the voltages by their formula, and each stage by what it computes of them. -/
theorem idealPassFormulas : Obligations.IdealPassFormulas := by
  unfold Obligations.IdealPassFormulas
  intro a p r fs ⟨_, _, _, ⟨_, fftMin_ge⟩, _⟩ nonempty l v mu m x s res
  have voltages : volts a.vref a.adcRes r = (List.range l).map v := volts_eq_map_range _ _ _
  have length : ((List.range l).map v).length = l := by simp
  have nonzero : l ≠ 0 := by simpa [l] using nonempty
  have result : res = _ := idealPass_of_ne_nil a p fs nonempty
  rw [voltages, length] at result
  have bin (k : Nat) (hk : k < m / 2) : res.spec.getD k 0 = magnitude s (dft m x) k := by
    rw [result, spectrum_getD _ _ (by rwa [length]), paddedSignal_map_range, length]
    rfl
  obtain ⟨least_mem, least⟩ := leastOf_map_range v nonzero
  obtain ⟨greatest_mem, greatest⟩ := greatestOf_map_range v nonzero
  refine ⟨?size, ?bins, ?bin_zero, fun k pos hk => ?bin_pos, ?dc, ?rms, ?range, ?min, ?max, ?p2p, ?peak⟩
  case size => rw [result]
  case bins => rw [result, spectrum_length, length]
  case bin_zero => rw [bin 0 (one_le_fftSize_div_two fftMin_ge), magnitude_zero]
  case bin_pos => rw [bin k hk, magnitude_of_pos _ _ pos]
  case dc => rw [result]; exact mean_map_range v l
  case rms => rw [result, ← meanSquare_map_range v l]; rfl
  case range => rw [result]; exact fun n hn => ⟨least n hn, greatest n hn⟩
  case min => rw [result]; exact least_mem
  case max => rw [result]; exact greatest_mem
  case p2p => rw [result]; rfl
  case peak => rw [result]; rfl

/-! ### A constant voltage -/

section Constant
variable (v : ℝ) {l : Nat} (hl : 1 ≤ l)
include hl

theorem mean_replicate : mean (List.replicate l v) = v := by
  have nonzero : (l : ℝ) ≠ 0 := Nat.cast_ne_zero.2 (by omega)
  simp [mean, nonzero]

theorem meanSquare_replicate : meanSquare (List.replicate l v) = v * v := by
  have nonzero : (l : ℝ) ≠ 0 := Nat.cast_ne_zero.2 (by omega)
  simp [meanSquare, nonzero]

theorem replicate_ne_nil : List.replicate l v ≠ [] := by simpa using Nat.one_le_iff_ne_zero.1 hl

theorem leastOf_replicate : leastOf (List.replicate l v) = v :=
  List.eq_of_mem_replicate (leastOf_spec (replicate_ne_nil v hl)).1

theorem greatestOf_replicate : greatestOf (List.replicate l v) = v :=
  List.eq_of_mem_replicate (greatestOf_spec (replicate_ne_nil v hl)).1

/-- Nothing is left of a constant when its mean is removed (44_dsp_pipeline.md R203). -/
theorem paddedSignal_replicate : paddedSignal (List.replicate l v) = fun _ => 0 := by
  funext n
  rw [paddedSignal_eq, mean_replicate v hl, List.length_replicate]
  split_ifs with inside
  · rw [List.getD_replicate v inside, sub_self, zero_mul, Complex.ofReal_zero]
  · rfl

theorem spectrum_replicate (fftMin : Nat) : ∀ y ∈ spectrum fftMin (List.replicate l v), y = 0 := by
  intro y hy
  obtain ⟨k, hk, rfl⟩ := List.mem_iff_getElem.1 hy
  rw [← List.getD_eq_getElem _ 0 hk, spectrum_getD _ _ (by rwa [← spectrum_length]), paddedSignal_replicate v hl]
  simp [magnitude, dft_zero]

end Constant

theorem peakSearch_of_zero (fMin : ℝ) (fs m : Nat) {spec : List ℝ} (zero : ∀ y ∈ spec, y = 0) :
    peakSearch fMin fs m spec = (0, 0) := by
  obtain ⟨not_found, -⟩ | ⟨k, hk, -, pos, -⟩ := peakSearch_found fMin fs m spec
  · exact not_found
  · have bin : spec.getD k 0 = 0 := by rw [List.getD_eq_getElem _ _ hk, zero _ (List.getElem_mem hk)]
    exact absurd bin pos.ne'

/-- Settles O39: without its mean a constant is zero, and the transform of zero is zero. -/
theorem constantWindowHasNoSpectrum : Obligations.ConstantWindowHasNoSpectrum := by
  unfold Obligations.ConstantWindowHasNoSpectrum
  intro a p x l fs _ hl v r
  have nonneg : 0 ≤ v := div_nonneg (mul_nonneg x.cast_nonneg a.vref_pos.le) a.adcRes_pos.le
  have voltages : volts a.vref a.adcRes (List.replicate l x) = List.replicate l v := List.map_replicate
  have result : r = _ := idealPass_of_ne_nil a p fs (by simpa using Nat.one_le_iff_ne_zero.1 hl)
  rw [voltages] at result
  have silent := spectrum_replicate v hl p.fftMin
  rw [result]
  refine ⟨silent, ?_⟩
  simp only [statistics, mean_replicate v hl, meanSquare_replicate v hl, leastOf_replicate v hl,
    greatestOf_replicate v hl, peakSearch_of_zero _ _ _ silent, Real.sqrt_mul_self nonneg, sub_self]

end Sys2Proof.Dsp

/-! ## The butterfly datapath: the bit-reversed load, the order of a stage's loops and the twiddle factors
(45_fft_butterfly.md) -/

namespace Sys2Proof.Dsp

/-- Settles O32: the transform theorem, by induction on the stages. -/
theorem butterfliesComputeTheTransform : Obligations.ButterfliesComputeTheTransform := by
  unfold Obligations.ButterfliesComputeTheTransform
  exact fun m xp _ hk => fft_twiddle_eq_dft m xp hk

/-! ### Bit reversal (45_fft_butterfly.md R231) -/

theorem bitRev_lt (m n : Nat) : bitRev m n < 2 ^ m := by
  induction m generalizing n with
  | zero => simp [bitRev]
  | succ m ih =>
    have rest := ih (n / 2)
    rcases Nat.mod_two_eq_zero_or_one n with bit | bit <;> simp only [bitRev, bit, pow_succ'] <;> omega

/-- Bit `j` of the reversed index, counted from the other end of the index. -/
theorem testBit_bitRev {m j : Nat} (hj : j < m) (n : Nat) : (bitRev m n).testBit j = n.testBit (m - 1 - j) := by
  induction m generalizing n with
  | zero => omega
  | succ m ih =>
    rw [bitRev, mul_comm, Nat.testBit_two_pow_mul_add _ (bitRev_lt m (n / 2))]
    split_ifs with low
    case pos =>
      rw [ih low, ← Nat.testBit_succ]
      congr 1
      omega
    case neg =>
      obtain rfl : j = m := by omega
      simp

theorem bitRev_bitRev {m n : Nat} (hn : n < 2 ^ m) : bitRev m (bitRev m n) = n := by
  refine Nat.eq_of_testBit_eq fun j => ?_
  rcases lt_or_ge j m with inside | outside
  · rw [testBit_bitRev inside, testBit_bitRev (by omega)]
    congr 1
    omega
  · have wide : 2 ^ m ≤ 2 ^ j := Nat.pow_le_pow_right two_pos outside
    rw [Nat.testBit_lt_two_pow ((bitRev_lt m _).trans_le wide), Nat.testBit_lt_two_pow (hn.trans_le wide)]

/-- Settles O33: the load reads through the reversal, which undoes itself. -/
theorem bitReversalIsItsOwnInverse : Obligations.BitReversalIsItsOwnInverse := by
  unfold Obligations.BitReversalIsItsOwnInverse
  intro m n xp hn
  exact ⟨bitRev_lt m n, bitRev_bitRev hn, fun _ hj => testBit_bitRev hj n, congrArg xp (bitRev_bitRev hn)⟩

/-! ### The loops of a stage (45_fft_butterfly.md R234)

The loops run through the butterflies of a stage in the order of their numbers, so that after the first `k` of them the
cells of these butterflies are done and the others are as before the stage. -/

/-- The number, in the order of the loops, of the butterfly that owns cell `i` in stage `s + 1`. -/
def bflyNumber (s i : Nat) : Nat := i / 2 ^ (s + 1) * 2 ^ s + i % 2 ^ s

/-- A butterfly's number names its two cells. -/
theorem bflyNumber_eq_iff {s j : Nat} (hj : j < 2 ^ s) (c i : Nat) :
    bflyNumber s i = c * 2 ^ s + j ↔ i = c * 2 ^ (s + 1) + j ∨ i = c * 2 ^ (s + 1) + j + 2 ^ s := by
  have pos : 0 < 2 ^ s := Nat.two_pow_pos s
  have halves : i / 2 ^ (s + 1) = i / 2 ^ s / 2 := by rw [pow_succ, Nat.div_div_eq_div_mul]
  have numbers : bflyNumber s i = c * 2 ^ s + j ↔ i / 2 ^ s / 2 = c ∧ i % 2 ^ s = j := by
    rw [bflyNumber, halves]
    refine ⟨fun same => ?_, fun ⟨block, offset⟩ => by rw [block, offset]⟩
    have block := congrArg (· / 2 ^ s) same
    have offset := congrArg (· % 2 ^ s) same
    simpa [mul_add_div_of_lt, Nat.mod_lt, Nat.mod_eq_of_lt, hj, pos] using And.intro block offset
  have cell (d : Nat) : i / 2 ^ s = d ∧ i % 2 ^ s = j ↔ i = 2 ^ s * d + j := by
    rw [Nat.div_mod_unique pos]
    exact ⟨fun ⟨sum, _⟩ => by omega, fun sum => ⟨by omega, hj⟩⟩
  have upper : 2 ^ s * (2 * c) + j = c * 2 ^ (s + 1) + j := by ring
  have lower : 2 ^ s * (2 * c + 1) + j = c * 2 ^ (s + 1) + j + 2 ^ s := by ring
  rw [numbers, ← lower, ← upper, ← cell, ← cell]
  omega

/-- A loop whose every turn leads from `g k` to `g (k + 1)` leads from `g 0` to `g n`. -/
theorem foldl_range_of_step {β : Type} (f : β → Nat → β) (g : Nat → β) (n : Nat)
    (turn : ∀ k < n, f (g k) k = g (k + 1)) : (List.range n).foldl f (g 0) = g n := by
  induction n with
  | zero => rfl
  | succ n ih =>
    rw [List.range_succ, List.foldl_append, ih fun k hk => turn k (by omega)]
    exact turn n (by omega)

section Loops
variable {α : Type} [Add α] [Sub α] [Mul α] (tw : Nat → Nat → α) (s : Nat) (a : Nat → α)

/-- The array after the first `k` butterflies of stage `s + 1`. -/
def stageUpTo (k : Nat) : Nat → α := fun i => if bflyNumber s i < k then stage tw (s + 1) a i else a i

theorem stageUpTo_zero : stageUpTo tw s a 0 = a := by
  funext i
  exact if_neg (Nat.not_lt_zero _)

/-- The two outputs of butterfly `j` of block `c`. -/
theorem stage_pair {j : Nat} (hj : j < 2 ^ s) (c : Nat) :
    (stage tw (s + 1) a (c * 2 ^ (s + 1) + j), stage tw (s + 1) a (c * 2 ^ (s + 1) + j + 2 ^ s)) =
      bfly (a (c * 2 ^ (s + 1) + j)) (a (c * 2 ^ (s + 1) + j + 2 ^ s)) (tw j (2 ^ (s + 1))) := by
  have upper : 2 * c * 2 ^ s + j = c * 2 ^ (s + 1) + j := by ring
  have lower : (2 * c + 1) * 2 ^ s + j = c * 2 ^ (s + 1) + j + 2 ^ s := by ring
  rw [add_assoc (c * _), stage_block tw s a c (by omega), stage_block tw s a c (by omega), if_pos hj,
    if_neg (by omega), Nat.add_sub_cancel, upper, lower, ← pow_succ', add_assoc]

/-- Butterfly `j` of block `c` takes the array one number further: its cells are still as before the stage, and it is
the only one to write them. -/
theorem bflyAt_stageUpTo {j : Nat} (hj : j < 2 ^ s) (c : Nat) :
    bflyAt (tw j (2 ^ (s + 1))) (c * 2 ^ (s + 1) + j) (c * 2 ^ (s + 1) + j + 2 ^ s)
      (stageUpTo tw s a (c * 2 ^ s + j)) = stageUpTo tw s a (c * 2 ^ s + j + 1) := by
  have numbers := bflyNumber_eq_iff hj c
  have upper := (numbers _).2 (.inl rfl)
  have lower := (numbers _).2 (.inr rfl)
  have outputs := stage_pair tw s a hj c
  funext i
  simp only [bflyAt, stageUpTo, upper, lower, lt_irrefl, if_false, ← outputs]
  rcases eq_or_ne (bflyNumber s i) (c * 2 ^ s + j) with own | other
  case inl =>
    rw [if_pos (Nat.lt_succ_of_le own.le)]
    rcases (numbers i).1 own with rfl | rfl
    · rw [if_neg (Nat.lt_add_of_pos_right (Nat.two_pow_pos s)).ne, if_pos rfl]
    · rw [if_pos rfl]
  case inr =>
    obtain ⟨not_upper, not_lower⟩ := not_or.1 (mt (numbers i).2 other)
    have earlier : bflyNumber s i < c * 2 ^ s + j + 1 ↔ bflyNumber s i < c * 2 ^ s + j := by omega
    rw [if_neg not_lower, if_neg not_upper, if_congr earlier rfl rfl]

/-- The inner loop does the butterflies of one block. -/
theorem blockLoop_stageUpTo (c : Nat) :
    (List.range (2 ^ s)).foldl (fun a j => bflyAt (tw j (2 ^ (s + 1))) (c * 2 ^ (s + 1) + j)
      (c * 2 ^ (s + 1) + j + 2 ^ s) a) (stageUpTo tw s a (c * 2 ^ s)) = stageUpTo tw s a ((c + 1) * 2 ^ s) := by
  rw [Nat.succ_mul]
  exact foldl_range_of_step _ (fun j => stageUpTo tw s a (c * 2 ^ s + j)) _ fun j hj =>
    bflyAt_stageUpTo tw s a hj c

theorem stageLoop_eq_stageUpTo (m : Nat) :
    stageLoop tw m (s + 1) a = stageUpTo tw s a (2 ^ m / 2 ^ (s + 1) * 2 ^ s) := by
  calc stageLoop tw m (s + 1) a
    _ = stageLoop tw m (s + 1) (stageUpTo tw s a (0 * 2 ^ s)) := by rw [zero_mul, stageUpTo_zero]
    _ = stageUpTo tw s a (2 ^ m / 2 ^ (s + 1) * 2 ^ s) :=
      foldl_range_of_step _ (fun c => stageUpTo tw s a (c * 2 ^ s)) _ fun c _ => blockLoop_stageUpTo tw s a c

/-- Every cell of the array belongs to a butterfly that the loops reach. -/
theorem bflyNumber_lt {m i : Nat} (hs : s + 1 ≤ m) (hi : i < 2 ^ m) :
    bflyNumber s i < 2 ^ m / 2 ^ (s + 1) * 2 ^ s := by
  have block : i / 2 ^ (s + 1) < 2 ^ m / 2 ^ (s + 1) := Nat.div_lt_div_of_lt_of_dvd (pow_dvd_pow 2 hs) hi
  have offset : i % 2 ^ s < 2 ^ s := Nat.mod_lt _ (Nat.two_pow_pos s)
  calc bflyNumber s i < (i / 2 ^ (s + 1) + 1) * 2 ^ s := by rw [bflyNumber, Nat.succ_mul]; omega
    _ ≤ 2 ^ m / 2 ^ (s + 1) * 2 ^ s := Nat.mul_le_mul_right _ block

end Loops

/-- Settles O34: after all their butterflies the loops have done every cell. -/
theorem stageInLoopOrder : Obligations.StageInLoopOrder := by
  unfold Obligations.StageInLoopOrder
  intro tw m s a i one_le hs hi
  obtain ⟨s, rfl⟩ := Nat.exists_eq_add_of_le' one_le
  rw [stageLoop_eq_stageUpTo]
  exact if_pos (bflyNumber_lt s hs hi)

/-! ### The twiddle factors (45_fft_butterfly.md R233, R240) -/

/-- The entry of the table for a butterfly: `M` is `2^d` times its span. -/
theorem twiddleIndex_eq (s d j : Nat) : j * 2 ^ (s + d) / 2 ^ s = j * 2 ^ d := by
  rw [pow_add, mul_left_comm, Nat.mul_div_cancel_left _ (Nat.two_pow_pos s)]

theorem twiddle_eq_romTw (s d j : Nat) : twiddle j (2 ^ s) = romTw (2 ^ (s + d)) (j * 2 ^ d) := by
  rw [twiddle, romTw]
  congr 1
  push_cast
  field_simp
  ring

theorem norm_twiddle (j span : Nat) : ‖twiddle j span‖ = 1 := by
  have angle : -2 * (Real.pi : ℂ) * Complex.I * j / span = ((-2 * Real.pi * j / span : ℝ) : ℂ) * Complex.I := by
    push_cast
    ring
  rw [twiddle, angle, Complex.norm_exp_ofReal_mul_I]

theorem twiddle_zero (span : Nat) : twiddle 0 span = 1 := by simp [twiddle]

/-- A quarter of a turn is exactly `−i` (45_fft_butterfly.md R240). -/
theorem twiddle_quarter {q : Nat} (pos : 0 < q) : twiddle q (4 * q) = -Complex.I := by
  have nonzero : (q : ℂ) ≠ 0 := Nat.cast_ne_zero.2 pos.ne'
  have angle : -2 * (Real.pi : ℂ) * Complex.I * q / ((4 * q : Nat) : ℂ) = -Real.pi / 2 * Complex.I := by
    push_cast
    field_simp
    ring
  rw [twiddle, angle, Complex.exp_neg_pi_div_two_mul_I]

/-- Settles O35: the index and its bound by powers of two, the values by their angles. -/
theorem twiddlesComeFromTheTable : Obligations.TwiddlesComeFromTheTable := by
  unfold Obligations.TwiddlesComeFromTheTable
  intro m s j hs hj
  obtain ⟨d, rfl⟩ := Nat.exists_eq_add_of_le hs
  rw [twiddleIndex_eq]
  refine ⟨twiddle_eq_romTw s d j, fun one_le => ?bound, norm_twiddle j _, twiddle_zero _, fun two_le => ?quarter⟩
  case bound =>
    obtain ⟨s, rfl⟩ := Nat.exists_eq_add_of_le' one_le
    have table_end : 2 ^ (s + 1 + d) / 2 = 2 ^ s * 2 ^ d := by
      rw [add_right_comm, pow_succ, Nat.mul_div_cancel _ two_pos, pow_add]
    rw [table_end]
    exact Nat.mul_lt_mul_of_pos_right hj (Nat.two_pow_pos d)
  case quarter =>
    obtain ⟨s, rfl⟩ := Nat.exists_eq_add_of_le' two_le
    have span : 2 ^ (s + 2) = 4 * 2 ^ s := by ring
    rw [span, Nat.mul_div_cancel_left _ four_pos, twiddle_quarter (Nat.two_pow_pos s)]

end Sys2Proof.Dsp

/-! ## The two halves and the link between them

Neither half reads the other: an operation of one half commutes with putting any other half in the place of the other
(`State.withHostOf`, `State.withDeviceOf`). That it does not write the other either is this equation with the state's own
other half put in, which changes nothing; what is left to say is what it does to the two queues. -/

namespace Sys2Proof.Machine

variable {e : Event} {s t u : State}

/-- An operation commutes with an update that neither its condition nor its step reads. -/
theorem perform_of_commutes {f : State → State} (on : enabled e (f s) = enabled e s)
    (taken : take e (f s) = mapNext f (take e s)) : perform e (f s) = mapNext f (perform e s) := by
  unfold perform
  rw [on, taken]
  split
  · rfl
  · rfl

/-! ### The device half does not read the host half -/

theorem txPush_withHostOf (b : Byte) : txPush b (s.withHostOf u) = (txPush b s).withHostOf u := by
  rw [txPush_eq, txPush_eq s]
  rfl

theorem txPushAll_withHostOf (bs : List Byte) : txPushAll bs (s.withHostOf u) = (txPushAll bs s).withHostOf u := by
  induction bs generalizing s with
  | nil => rfl
  | cons b bs ih => rw [txPushAll_cons, txPush_withHostOf, ih, txPushAll_cons]

theorem pushResponseByte_withHostOf (k : Nat) (b : Byte) :
    pushResponseByte k b (s.withHostOf u) = (pushResponseByte k b s).withHostOf u := by
  rw [pushResponseByte, txPush_withHostOf]
  rfl

theorem txDrain_withHostOf : txDrain (s.withHostOf u) = (txDrain s).withHostOf u := by
  rw [txDrain_eq, txDrain_eq s]
  rfl

theorem exec_command_withHostOf {i : Instr} (command : i.isCommand = true) :
    exec i (s.withHostOf u) = mapNext (·.withHostOf u) (exec i s) := by
  cases i with
  | cmdStart | cmdStop | cmdRate1 | cmdRate10 | cmdRate20 | cmdIgnore => rfl
  | cmdHandshake =>
    cases grain : s.grain with
    | whole =>
      rw [exec_cmdHandshake_of_whole grain, exec_cmdHandshake_of_whole (s := s.withHostOf u) grain, txPushAll_withHostOf]
      rfl
    | subSteps =>
      rw [exec_cmdHandshake_of_subSteps grain, exec_cmdHandshake_of_subSteps (s := s.withHostOf u) grain,
        pushResponseByte_withHostOf]
      rfl
  | decHi | decLo | decDrop => cases command

theorem opCmd_withHostOf (b : Byte) : opCmd b (s.withHostOf u) = mapNext (·.withHostOf u) (opCmd b s) :=
  exec_command_withHostOf (decodeCommand_isCommand b)

theorem opConvDone_withHostOf (v : Sample) :
    opConvDone v (s.withHostOf u) = mapNext (·.withHostOf u) (opConvDone v s) := by
  have cleared : { s.withHostOf u with convPending := false } = ({ s with convPending := false } : State).withHostOf u :=
    rfl
  cases grain : s.grain with
  | whole =>
    rw [opConvDone_of_whole v grain, opConvDone_of_whole (s := s.withHostOf u) v grain, cleared, txPush_withHostOf,
      txPush_withHostOf]
    rfl
  | subSteps =>
    rw [opConvDone_of_subSteps v grain, opConvDone_of_subSteps (s := s.withHostOf u) v grain, cleared, txPush_withHostOf]
    rfl

theorem opTxPush_withHostOf (b : Byte) : opTxPush b (s.withHostOf u) = mapNext (·.withHostOf u) (opTxPush b s) := by
  have lo : (s.withHostOf u).convLo = s.convLo := rfl
  have pos : (s.withHostOf u).hsPos = s.hsPos := rfl
  simp only [opTxPush, lo, pos, txPush_withHostOf, pushResponseByte_withHostOf]
  cases s.convLo with
  | some => rfl
  | none =>
    cases s.hsPos with
    | some => rfl
    | none => rfl

theorem opLinkH2d_withHostOf (act : LinkAct) :
    opLinkH2d act (s.withHostOf u) = mapNext (·.withHostOf u) (opLinkH2d act s) := by
  have queue : (s.withHostOf u).linkH2d = s.linkH2d := rfl
  simp only [opLinkH2d, queue]
  cases s.linkH2d with
  | nil => rfl
  | cons b rest =>
    cases act with
    | deliver => exact opCmd_withHostOf (s := { s with linkH2d := rest }) b
    | drop => rfl
    | garble b' => exact opCmd_withHostOf (s := { s with linkH2d := rest }) b'

theorem opDevReset_withHostOf (c : ResetCause) :
    opDevReset c (s.withHostOf u) = mapNext (·.withHostOf u) (opDevReset c s) := by
  cases c with
  | powerOn | watchdog | linkOpen => rfl

theorem enabled_withHostOf (device : e.ofDevice = true) : enabled e (s.withHostOf u) = enabled e s := by
  cases e with
  | linkH2d act =>
    cases act with
    | deliver | drop | garble => rfl
  | devReset | tick | convDone | txPush | txDrain | cmd => rfl
  | hostReset | linkD2h | hostSend | hostConnect | hostTimeout | hostDisconnect | hostXfault | hostRx | hsReadRecent
  | dspDone | setGrain => cases device

theorem take_withHostOf (device : e.ofDevice = true) :
    take e (s.withHostOf u) = mapNext (·.withHostOf u) (take e s) := by
  cases e with
  | devReset c => exact opDevReset_withHostOf c
  | tick => rfl
  | convDone v => exact opConvDone_withHostOf v
  | txPush b => exact opTxPush_withHostOf b
  | txDrain => exact congrArg Host.Outcome.next txDrain_withHostOf
  | linkH2d act => exact opLinkH2d_withHostOf act
  | cmd b => exact opCmd_withHostOf b
  | hostReset | linkD2h | hostSend | hostConnect | hostTimeout | hostDisconnect | hostXfault | hostRx | hsReadRecent
  | dspDone | setGrain => cases device

theorem perform_withHostOf (device : e.ofDevice = true) :
    perform e (s.withHostOf u) = mapNext (·.withHostOf u) (perform e s) :=
  perform_of_commutes (f := (·.withHostOf u)) (enabled_withHostOf device) (take_withHostOf device)

/-! ### The host half does not read the device half -/

theorem bpCount_withDeviceOf : bpCount (s.withDeviceOf u) = (bpCount s).withDeviceOf u := by
  rw [bpCount_eq, bpCount_eq s]
  rfl

theorem collectHandshake_withDeviceOf (b : Byte) :
    collectHandshake b (s.withDeviceOf u) = (collectHandshake b s).withDeviceOf u := by
  rw [collectHandshake_eq, collectHandshake_eq b s]
  rfl

theorem exec_decodeData_withDeviceOf (b : Byte) :
    exec (decodeData s.decPending b) (s.withDeviceOf u) =
      mapNext (·.withDeviceOf u) (exec (decodeData s.decPending b) s) := by
  obtain ⟨-, dec⟩ | ⟨-, pending, dec⟩ | ⟨-, idle, dec⟩ := decodeData_cases s.decPending b <;> rw [dec]
  · rfl
  · rw [exec_decLo_of_pending _ pending, exec_decLo_of_pending (s := s.withDeviceOf u) _ pending]
    exact congrArg Host.Outcome.next (bpCount_withDeviceOf (s := s.lowWritten _))
  · rw [exec_decDrop_of_idle _ idle, exec_decDrop_of_idle (s := s.withDeviceOf u) _ idle]
    rfl

theorem opHostRx_withDeviceOf (b : Byte) :
    opHostRx b (s.withDeviceOf u) = mapNext (·.withDeviceOf u) (opHostRx b s) := by
  have conn : (s.withDeviceOf u).hConn = s.hConn := rfl
  cases live : s.hConn with
  | connected =>
    rw [opHostRx_of_connected b live, opHostRx_of_connected b (conn.trans live)]
    exact exec_decodeData_withDeviceOf (s := s) b
  | handshaking =>
    simp only [opHostRx, conn, live, collectHandshake_withDeviceOf]
    rfl
  | disconnected | failed =>
    simp only [opHostRx, conn, live]
    rfl

theorem opLinkD2h_withDeviceOf (act : LinkAct) :
    opLinkD2h act (s.withDeviceOf u) = mapNext (·.withDeviceOf u) (opLinkD2h act s) := by
  have queue : (s.withDeviceOf u).linkD2h = s.linkD2h := rfl
  simp only [opLinkD2h, queue]
  cases s.linkD2h with
  | nil => rfl
  | cons b rest =>
    cases act with
    | deliver => exact opHostRx_withDeviceOf (s := { s with linkD2h := rest }) b
    | drop => rfl
    | garble b' => exact opHostRx_withDeviceOf (s := { s with linkD2h := rest }) b'

theorem opHostSend_withDeviceOf (c : HostCmd) :
    opHostSend c (s.withDeviceOf u) = mapNext (·.withDeviceOf u) (opHostSend c s) := by
  cases c with
  | start | stop | rate1 | rate10 | rate20 => rfl

theorem enabled_withDeviceOf (host : e.ofHost = true) : enabled e (s.withDeviceOf u) = enabled e s := by
  cases e with
  | hostReset | linkD2h | hostSend | hostConnect | hostTimeout | hostDisconnect | hostXfault | hostRx | hsReadRecent
  | dspDone => rfl
  | devReset | tick | convDone | txPush | txDrain | linkH2d | cmd | setGrain => cases host

theorem take_withDeviceOf (host : e.ofHost = true) :
    take e (s.withDeviceOf u) = mapNext (·.withDeviceOf u) (take e s) := by
  cases e with
  | linkD2h act => exact opLinkD2h_withDeviceOf act
  | hostSend c => exact opHostSend_withDeviceOf c
  | hostRx b => exact opHostRx_withDeviceOf b
  | hostReset | hostConnect | hostTimeout | hostDisconnect | hostXfault | hsReadRecent | dspDone => rfl
  | devReset | tick | convDone | txPush | txDrain | linkH2d | cmd | setGrain => cases host

theorem perform_withDeviceOf (host : e.ofHost = true) :
    perform e (s.withDeviceOf u) = mapNext (·.withDeviceOf u) (perform e s) :=
  perform_of_commutes (f := (·.withDeviceOf u)) (enabled_withDeviceOf host) (take_withDeviceOf host)

/-! ### Neither half writes the other -/

theorem sameHost_withHostOf (s t : State) : SameHost s (t.withHostOf s) := by
  constructor <;> intros <;> rfl

theorem sameDevice_withDeviceOf (s t : State) : SameDevice s (t.withDeviceOf s) := by
  constructor <;> intros <;> rfl

/-- The state's own host half, put in, comes out of an operation of the device half as it was. -/
theorem perform_sameHost (device : e.ofDevice = true) (done : perform e s = .next t) : SameHost s t := by
  have own : perform e s = mapNext (·.withHostOf s) (perform e s) := perform_withHostOf (u := s) device
  rw [done] at own
  exact Host.Outcome.next.inj own ▸ sameHost_withHostOf s t

/-- The state's own device half, put in, comes out of an operation of the host half as it was. -/
theorem perform_sameDevice (host : e.ofHost = true) (done : perform e s = .next t) : SameDevice s t := by
  have own : perform e s = mapNext (·.withDeviceOf s) (perform e s) := perform_withDeviceOf (u := s) host
  rw [done] at own
  exact Host.Outcome.next.inj own ▸ sameDevice_withDeviceOf s t

/-! ### What a half does to its two queues -/

/-- What an operation can do to the queue its half is fed from, `q` before and `q'` after, and to the queue it feeds,
`p` before and `p'` after (20_memory.md R70). -/
inductive LinkMoved (q q' p p' : List Byte) : Prop where
  | keeps (fed : q' = q) (feeds : p' = p)
  | takes (fed : q' = q.tail) (feeds : p' = p)
  | gives (b : Byte) (fed : q' = q) (feeds : p' = p ++ [b])

theorem LinkMoved.ends {q q' p p' : List Byte} (h : LinkMoved q q' p p') :
    (q' = q ∨ q' = q.tail) ∧ ∃ bs, p' = p ++ bs := by
  cases h with
  | keeps fed feeds => exact ⟨.inl fed, [], by simp [feeds]⟩
  | takes fed feeds => exact ⟨.inr fed, [], by simp [feeds]⟩
  | gives b fed feeds => exact ⟨.inl fed, [b], feeds⟩

/-- The queues as the device half sees them: it is fed from `link_h2d` and feeds `link_d2h`. -/
abbrev DeviceMovedLink (s t : State) : Prop := LinkMoved s.linkH2d t.linkH2d s.linkD2h t.linkD2h

/-- The queues as the host half sees them: it is fed from `link_d2h` and feeds `link_h2d`. -/
abbrev HostMovedLink (s t : State) : Prop := LinkMoved s.linkD2h t.linkD2h s.linkH2d t.linkH2d

theorem deviceMovedLink_txDrain : DeviceMovedLink s (txDrain s) := by
  by_cases empty : txEmpty s = true
  · exact .keeps (by simp) (by simp [txDrain_eq, empty])
  · exact .gives (s.txRead s.txDrainCell) (by simp) (by simp [txDrain_eq, empty])

theorem deviceMovedLink_opLinkH2d {act : LinkAct} (taken : opLinkH2d act s = .next t) : DeviceMovedLink s t := by
  cases queue : s.linkH2d with
  | nil => simp [opLinkH2d, queue] at taken
  | cons b rest =>
    simp only [opLinkH2d, queue] at taken
    cases act with
    | deliver | garble =>
      have kept := commandKeeps_opCmd taken
      exact .takes (by simp [kept.linkH2d, queue]) kept.linkD2h
    | drop => cases taken; exact .takes (by simp [queue]) rfl

theorem perform_deviceMovedLink (device : e.ofDevice = true) (done : perform e s = .next t) : DeviceMovedLink s t := by
  obtain ⟨-, taken⟩ := perform_next done
  cases e with
  | devReset c =>
    cases c with
    | powerOn | watchdog | linkOpen => cases taken; exact .keeps rfl rfl
  | tick => cases taken; exact .keeps rfl rfl
  | convDone v =>
    obtain rfl | rfl := opConvDone_cases taken
    all_goals exact .keeps (by simp) (by simp)
  | txPush b =>
    obtain rfl | ⟨k, -, rfl⟩ := opTxPush_cases taken
    all_goals exact .keeps (txPush_linkH2d s b) (txPush_linkD2h s b)
  | txDrain => cases taken; exact deviceMovedLink_txDrain
  | linkH2d act => exact deviceMovedLink_opLinkH2d taken
  | cmd b => have kept := commandKeeps_opCmd taken; exact .keeps kept.linkH2d kept.linkD2h
  | hostReset | linkD2h | hostSend | hostConnect | hostTimeout | hostDisconnect | hostXfault | hostRx | hsReadRecent
  | dspDone | setGrain => cases device

/-- The host half answers no byte it receives (42_command_channel.md R172). -/
theorem opHostRx_links {b : Byte} (taken : opHostRx b s = .next t) : t.linkD2h = s.linkD2h ∧ t.linkH2d = s.linkH2d := by
  obtain rfl | ⟨-, rfl⟩ | ⟨-, d, p, rfl⟩ | ⟨-, l, rfl⟩ := opHostRx_cases taken
  · exact ⟨rfl, rfl⟩
  · rw [collectHandshake_eq]; exact ⟨rfl, rfl⟩
  · exact ⟨rfl, rfl⟩
  · simp

theorem hostMovedLink_opLinkD2h {act : LinkAct} (taken : opLinkD2h act s = .next t) : HostMovedLink s t := by
  cases queue : s.linkD2h with
  | nil => simp [opLinkD2h, queue] at taken
  | cons b rest =>
    simp only [opLinkD2h, queue] at taken
    cases act with
    | deliver | garble =>
      obtain ⟨fed, feeds⟩ := opHostRx_links taken
      exact .takes (by simp [fed, queue]) feeds
    | drop => cases taken; exact .takes (by simp [queue]) rfl

theorem perform_hostMovedLink (host : e.ofHost = true) (done : perform e s = .next t) : HostMovedLink s t := by
  obtain ⟨-, taken⟩ := perform_next done
  cases e with
  | linkD2h act => exact hostMovedLink_opLinkD2h taken
  | hostRx b => obtain ⟨fed, feeds⟩ := opHostRx_links taken; exact .keeps fed feeds
  | hostSend c =>
    cases taken
    cases c with
    | start | stop | rate1 | rate10 | rate20 => exact .gives _ rfl rfl
  | hostConnect => cases taken; exact .gives _ rfl rfl
  | hostReset | hostTimeout | hostDisconnect | hostXfault | hsReadRecent | dspDone => cases taken; exact .keeps rfl rfl
  | devReset | tick | convDone | txPush | txDrain | linkH2d | cmd | setGrain => cases host

/-- Settles O57: each half's operations commute with any other half, its own among them, and move the two queues only at
the half's own ends. -/
theorem halvesMeetOnlyOnTheLink : Obligations.HalvesMeetOnlyOnTheLink := by
  unfold Obligations.HalvesMeetOnlyOnTheLink
  refine ⟨fun e s u => ⟨perform_withHostOf, perform_withDeviceOf⟩, fun e s t done => ⟨fun device => ?_, fun host => ?_⟩⟩
  · exact ⟨perform_sameHost device done, (perform_deviceMovedLink device done).ends⟩
  · exact ⟨perform_sameDevice host done, (perform_hostMovedLink host done).ends⟩

end Sys2Proof.Machine

/-! ## What a step is: the next line of the program, or a free choice -/

namespace Sys2Proof.Machine

variable {s : State} {prog : List Event}

theorem step_of_line {e : Event} (line : s.trace = e :: prog) : step s = perform e { s with trace := prog } := by
  rw [step, takeNext, line]

/-- The operation drawn is taken where it is an agent's and enabled; else only the draw has been made (log 2). -/
theorem step_of_no_line (none_loaded : s.trace = []) : step s =
    if (Config.schedule s.draws).ofAgent && enabled (Config.schedule s.draws) { s with draws := s.draws + 1 } then
      perform (Config.schedule s.draws) { s with draws := s.draws + 1 }
    else .next { s with draws := s.draws + 1 } := by
  rw [step, takeNext, none_loaded]

/-- A device with no operation in progress runs what the byte decodes to (42_command_channel.md R160). -/
theorem perform_cmd_of_decode {b : Byte} {i : Instr} (pos : s.hsPos = none) (lo : s.convLo = none)
    (dec : decode .cmd [b] = .ok (i, [])) : perform (.cmd b) s = exec i s := by
  rw [perform_of_enabled (e := .cmd b) (by simp [enabled, cmdReady, pos, lo]), take, opCmd, dec]

/-- A connected host runs what the byte decodes to in its decoder's state (42_command_channel.md R172). -/
theorem perform_hostRx_of_decode {b : Byte} {i : Instr} (connected : s.hConn = .connected)
    (dec : decode (.data s.decPending) [b] = .ok (i, [])) : perform (.hostRx b) s = exec i s := by
  rw [perform_hostRx, opHostRx, connected]
  simp only [dec]

/-- Settles O52: the line is performed; a delivery hands the front byte to the half that decodes it. -/
theorem stepRunsTheDecodedInstruction : Obligations.StepRunsTheDecodedInstruction := by
  unfold Obligations.StepRunsTheDecodedInstruction
  refine fun s prog => ⟨fun e => step_of_line, fun b q i line front pos lo dec => ?toDevice,
    fun b q i line front connected dec => ?toHost⟩
  case toDevice =>
    calc step s = perform (.linkH2d .deliver) { s with trace := prog } := step_of_line line
      _ = perform (.cmd b) { s with trace := prog, linkH2d := q } := perform_linkH2d_deliver front
      _ = exec i { s with trace := prog, linkH2d := q } := perform_cmd_of_decode pos lo dec
  case toHost =>
    calc step s = perform (.linkD2h .deliver) { s with trace := prog } := step_of_line line
      _ = perform (.hostRx b) { s with trace := prog, linkD2h := q } := perform_linkD2h_deliver front
      _ = exec i { s with trace := prog, linkD2h := q } := perform_hostRx_of_decode connected dec

/-- Settles O53: the draw falls on an enabled operation of an agent, or on nothing that may be taken. -/
theorem stepWithoutProgramIsAnAgentsChoice : Obligations.StepWithoutProgramIsAnAgentsChoice := by
  unfold Obligations.StepWithoutProgramIsAnAgentsChoice
  intro s none_loaded
  rw [step_of_no_line none_loaded]
  split
  case isTrue admitted =>
    obtain ⟨agent, on⟩ := Bool.and_eq_true_iff.1 admitted
    exact .inl ⟨_, agent, on, rfl⟩
  case isFalse => exact .inr rfl

end Sys2Proof.Machine

/-! ## The resets -/

namespace Sys2Proof.Machine

/-- The cause of a reset of the device shows in the record of faults alone (log 20). -/
theorem perform_devReset (c : ResetCause) (s : State) : perform (.devReset c) s = .next { deviceReset s with
    raised := if c = .watchdog then .watchdogReset :: s.raised else s.raised } := by
  rw [perform_of_enabled (e := .devReset c) rfl, take]
  cases c with
  | powerOn | watchdog | linkOpen => rfl

theorem perform_hostReset (s : State) : perform .hostReset s = .next (hostHalfReset s) := perform_of_enabled rfl

/-- Settles O50: by the state `DEV.RESET` reaches; no operation of the device half writes the host half. -/
theorem deviceResetLeavesHostAndLink : Obligations.DeviceResetLeavesHostAndLink := by
  unfold Obligations.DeviceResetLeavesHostAndLink
  intro c s
  have host_kept : SameHost s _ := perform_sameHost rfl (perform_devReset c s)
  exact ⟨_, perform_devReset c s, by simp, host_kept, deviceReset_linkD2h s, deviceReset_linkH2d s, deviceReset_cfg s,
    deviceReset_emitted s, rfl⟩

/-- Settles O51: by the state `HOST.RESET` reaches; no operation of the host half writes the device half. -/
theorem hostResetLeavesDeviceAndLink : Obligations.HostResetLeavesDeviceAndLink := by
  unfold Obligations.HostResetLeavesDeviceAndLink
  intro s
  have device_kept : SameDevice s (hostHalfReset s) := perform_sameDevice rfl (perform_hostReset s)
  exact ⟨_, perform_hostReset s, by simp, device_kept, hostHalfReset_linkD2h s, hostHalfReset_linkH2d s,
    hostHalfReset_cfg s, hostHalfReset_emitted s, hostHalfReset_raised s⟩

end Sys2Proof.Machine
